-- ==== Sys2Proof/Word.lean ====
section
/-!
DEFINITION. The word types of the machine (00_scope.md R7: every quantity is unsigned; the widths are 8, 12, 16, 32, 64).
-/

namespace Sys2Proof

/-- A byte: a general register, a timer, a memory cell, a pixel, the immediate `NN`. -/
abbrev Byte := BitVec 8

/-- A 16-bit word: `I`, `PC`, a stack slot, an opcode. -/
abbrev Word := BitVec 16

/-- The 12-bit immediate `NNN` of an opcode. -/
abbrev Addr12 := BitVec 12

/-- A word of the random generator's history (44_keys_timers_random.md R223). -/
abbrev Word32 := BitVec 32

/-- The product the generator forms (44_keys_timers_random.md R225). -/
abbrev Word64 := BitVec 64

/-- The number of a general register, 0..15 (10_state.md R21). -/
abbrev Reg := Fin 16

end Sys2Proof
end

