-- ==== Sys2Proof/Config.lean ====
section
/-!
DEFINITION. The parameters of 00_scope.md R6 and the free values of the spec. A parameter the source gives a value is a
constant; one that has only a default is a field of `Params`, which the state carries, so that a statement about every state
is about every value (log 30); one the spec calls OPEN has no body, so no proof can see what it is (log 6, log 7).
-/

namespace Sys2Proof

/-- The parameters that an implementation chooses (R6): their defaults are `Params.defaults`, and what a choice must satisfy
is `Params.ok`. -/
structure Params where
  /-- `MEM_SIZE`, bytes of main memory (log 1) -/
  memSize : Nat
  /-- `PROGRAM_START`, the address of the first image byte and the reset value of `PC` (log 2) -/
  programStart : Nat
  /-- `DISPLAY_WIDTH`, W (log 3) -/
  displayWidth : Nat
  /-- `DISPLAY_HEIGHT`, H (log 3) -/
  displayHeight : Nat
  /-- `NUM_GLYPHS` (log 4) -/
  numGlyphs : Nat
  /-- `FONT`, the `NUM_GLYPHS * GLYPH_BYTES` font bytes (log 4) -/
  font : List Byte
  /-- `STRICT_DECODE`: the model refuses the non-canonical spellings of 30_encoding.md R93 (log 14) -/
  strictDecode : Bool
deriving DecidableEq, Repr

namespace Config

/-- `NUM_REGS` (R6, the source). -/
abbrev numRegs : Nat := 16
/-- `STACK_DEPTH` (R6, the source). -/
abbrev stackDepth : Nat := 16
/-- `NUM_KEYS` (R6, the source). -/
abbrev numKeys : Nat := 16
/-- `GLYPH_BYTES` (R6, the source). -/
abbrev glyphBytes : Nat := 5
/-- `FONT_BASE` (R6, derived there from R165). -/
abbrev fontBase : Nat := 0

/-! The random generator's OPEN parameters (R6, R224 to R226, D14): no body. Log 7. -/

/-- `RNG_N`, the words of history (R6, the source). -/
abbrev rngN : Nat := 4096
/-- `RNG_SEED`, "a fixed seed" (R224). -/
opaque rngSeed : Word32
/-- The upper 31 bits of `RNG_C`. -/
opaque rngCHigh : BitVec 31
/-- `RNG_C`, "a fixed odd constant" (R224): odd, and nothing else is known. -/
def rngC : Word32 := rngCHigh ++ 1#1
/-- `RNG_A`, "a fixed multiplier constant" (R225), as a factor of a 64-bit product. -/
opaque rngA : Word64
/-- `RNG_MAX`, "a fixed constant just below 2^32" (R225). -/
opaque rngMax : Word32
/-- `RNG_CARRY0`, the carry right after seeding (R224). -/
opaque rngCarry0 : Word32
/-- `RNG_INDEX0`, the index right after seeding (R224). -/
opaque rngIndex0 : Fin 4096
/-- `RngFill`: the word that seeding puts into slot i, for i in 3..4095 (R224). -/
opaque rngFill : Nat → Word32
/-- `RandByte` and the draw of R222 in one: the byte that the n-th draw (counted from 0) delivers, given the generator's
output. Since it may differ for every n, no law holds of the bytes drawn (R222: "a value of width 8 that no rule
constrains", R11). A free value: log 6. -/
opaque randByte : Nat → Word32 → Byte

end Config

end Sys2Proof
end

