-- ==== Sys2Proof/Syntax.lean ====
section
/-!
DEFINITION. The instruction set: one constructor for each of the 34 rows of spec/opcode_table.json (30_encoding.md R85),
in the table's order. Operands are the fields R82 gives the row's format: `x`, `y` register numbers, `nn` the 8-bit and
`nnn` the 12-bit immediate, `n` the sprite height. A field that a format ignores (R84) is no operand.
-/

namespace Sys2Proof

/-- An instruction of the engine. Every value of every operand type is legal (30_encoding.md R83). -/
inductive Instr where
  /-- `00E0` CLS (R188) -/
  | cls
  /-- `00EE` RET (R116) -/
  | ret
  /-- `1NNN` JP nnn (R117) -/
  | jp (nnn : Addr12)
  /-- `2NNN` CALL nnn (R118) -/
  | call (nnn : Addr12)
  /-- `3XNN` SE Vx, nn (R120) -/
  | seImm (x : Reg) (nn : Byte)
  /-- `4XNN` SNE Vx, nn (R121) -/
  | sneImm (x : Reg) (nn : Byte)
  /-- `5XY_` SE Vx, Vy (R122) -/
  | seReg (x y : Reg)
  /-- `6XNN` LD Vx, nn (R140) -/
  | ldImm (x : Reg) (nn : Byte)
  /-- `7XNN` ADD Vx, nn (R141) -/
  | addImm (x : Reg) (nn : Byte)
  /-- `8XY0` LD Vx, Vy (R142) -/
  | ldReg (x y : Reg)
  /-- `8XY1` OR Vx, Vy (R143) -/
  | orReg (x y : Reg)
  /-- `8XY2` AND Vx, Vy (R144) -/
  | andReg (x y : Reg)
  /-- `8XY3` XOR Vx, Vy (R145) -/
  | xorReg (x y : Reg)
  /-- `8XY4` ADD Vx, Vy (R146) -/
  | addReg (x y : Reg)
  /-- `8XY5` SUB Vx, Vy (R147) -/
  | sub (x y : Reg)
  /-- `8XY6` SHR Vx (R148); the field Y is no operand (R150) -/
  | shr (x : Reg)
  /-- `8XY7` SUBN Vx, Vy (R149) -/
  | subn (x y : Reg)
  /-- `8XYE` SHL Vx (R151); the field Y is no operand (R150) -/
  | shl (x : Reg)
  /-- `9XY_` SNE Vx, Vy (R123) -/
  | sneReg (x y : Reg)
  /-- `ANNN` LD I, nnn (R163) -/
  | ldI (nnn : Addr12)
  /-- `BNNN` JP V0, nnn (R119) -/
  | jpV0 (nnn : Addr12)
  /-- `CXNN` RND Vx, nn (R222) -/
  | rnd (x : Reg) (nn : Byte)
  /-- `DXYN` DRW Vx, Vy, n (R189) -/
  | drw (x y : Reg) (n : Fin 16)
  /-- `EX9E` SKP Vx (R210) -/
  | skp (x : Reg)
  /-- `EXA1` SKNP Vx (R211) -/
  | sknp (x : Reg)
  /-- `FX07` LD Vx, DT (R213) -/
  | ldVxDt (x : Reg)
  /-- `FX0A` LD Vx, K (R212) -/
  | ldVxK (x : Reg)
  /-- `FX15` LD DT, Vx (R214) -/
  | ldDtVx (x : Reg)
  /-- `FX18` LD ST, Vx (R215) -/
  | ldStVx (x : Reg)
  /-- `FX1E` ADD I, Vx (R164) -/
  | addI (x : Reg)
  /-- `FX29` LD F, Vx (R165) -/
  | ldF (x : Reg)
  /-- `FX33` LD B, Vx (R166) -/
  | ldB (x : Reg)
  /-- `FX55` LD [I], Vx (R167) -/
  | stRegs (x : Reg)
  /-- `FX65` LD Vx, [I] (R168) -/
  | ldRegs (x : Reg)
deriving DecidableEq, Repr

/-- The row of spec/opcode_table.json an instruction belongs to, by the table's spelling of its mnemonic. -/
def Instr.mnemonic : Instr → String
  | .cls => "CLS"
  | .ret => "RET"
  | .jp _ => "JP_nnn"
  | .call _ => "CALL_nnn"
  | .seImm _ _ => "SE_Vx__nn"
  | .sneImm _ _ => "SNE_Vx__nn"
  | .seReg _ _ => "SE_Vx__Vy"
  | .ldImm _ _ => "LD_Vx__nn"
  | .addImm _ _ => "ADD_Vx__nn"
  | .ldReg _ _ => "LD_Vx__Vy"
  | .orReg _ _ => "OR_Vx__Vy"
  | .andReg _ _ => "AND_Vx__Vy"
  | .xorReg _ _ => "XOR_Vx__Vy"
  | .addReg _ _ => "ADD_Vx__Vy"
  | .sub _ _ => "SUB_Vx__Vy"
  | .shr _ => "SHR_Vx"
  | .subn _ _ => "SUBN_Vx__Vy"
  | .shl _ => "SHL_Vx"
  | .sneReg _ _ => "SNE_Vx__Vy"
  | .ldI _ => "LD_I__nnn"
  | .jpV0 _ => "JP_V0__nnn"
  | .rnd _ _ => "RND_Vx__nn"
  | .drw _ _ _ => "DRW_Vx__Vy__n"
  | .skp _ => "SKP_Vx"
  | .sknp _ => "SKNP_Vx"
  | .ldVxDt _ => "LD_Vx__DT"
  | .ldVxK _ => "LD_Vx__K"
  | .ldDtVx _ => "LD_DT__Vx"
  | .ldStVx _ => "LD_ST__Vx"
  | .addI _ => "ADD_I__Vx"
  | .ldF _ => "LD_F__Vx"
  | .ldB _ => "LD_B__Vx"
  | .stRegs _ => "LD__I___Vx"
  | .ldRegs _ => "LD_Vx___I"

end Sys2Proof
end

