-- ==== Sys2Proof/WellFormed.lean ====
section
/-!
DEFINITION. What is checked before anything runs. Instruction operands need no check: their types carry the bounds, and
"every value 0..15 is legal" (30_encoding.md R83), so every `Instr` is well-formed. What can be ill-formed is an opcode
word (R92), its spelling (R93), a choice of the parameters (00_scope.md R6), and the argument of a host transaction
(50_host_interface.md R241, R246, R247).
-/

namespace Sys2Proof

/-- A row of the opcode map (30_encoding.md R85): a word `w` is the row's instruction exactly when
`w &&& mask = pattern`. -/
structure OpcodeRow where
  mnemonic : String
  mask : Word
  pattern : Word
deriving DecidableEq, Repr

/-- The opcode map of 30_encoding.md R85 and spec/opcode_table.json, its 34 rows in order. -/
def opcodeMap : List OpcodeRow :=
  [⟨"CLS", 0xF0FF, 0x00E0⟩, ⟨"RET", 0xF0FF, 0x00EE⟩, ⟨"JP_nnn", 0xF000, 0x1000⟩] ++
  [⟨"CALL_nnn", 0xF000, 0x2000⟩, ⟨"SE_Vx__nn", 0xF000, 0x3000⟩, ⟨"SNE_Vx__nn", 0xF000, 0x4000⟩] ++
  [⟨"SE_Vx__Vy", 0xF000, 0x5000⟩, ⟨"LD_Vx__nn", 0xF000, 0x6000⟩, ⟨"ADD_Vx__nn", 0xF000, 0x7000⟩] ++
  [⟨"LD_Vx__Vy", 0xF00F, 0x8000⟩, ⟨"OR_Vx__Vy", 0xF00F, 0x8001⟩, ⟨"AND_Vx__Vy", 0xF00F, 0x8002⟩] ++
  [⟨"XOR_Vx__Vy", 0xF00F, 0x8003⟩, ⟨"ADD_Vx__Vy", 0xF00F, 0x8004⟩, ⟨"SUB_Vx__Vy", 0xF00F, 0x8005⟩] ++
  [⟨"SHR_Vx", 0xF00F, 0x8006⟩, ⟨"SUBN_Vx__Vy", 0xF00F, 0x8007⟩, ⟨"SHL_Vx", 0xF00F, 0x800E⟩] ++
  [⟨"SNE_Vx__Vy", 0xF000, 0x9000⟩, ⟨"LD_I__nnn", 0xF000, 0xA000⟩, ⟨"JP_V0__nnn", 0xF000, 0xB000⟩] ++
  [⟨"RND_Vx__nn", 0xF000, 0xC000⟩, ⟨"DRW_Vx__Vy__n", 0xF000, 0xD000⟩, ⟨"SKP_Vx", 0xF0FF, 0xE09E⟩] ++
  [⟨"SKNP_Vx", 0xF0FF, 0xE0A1⟩, ⟨"LD_Vx__DT", 0xF0FF, 0xF007⟩, ⟨"LD_Vx__K", 0xF0FF, 0xF00A⟩] ++
  [⟨"LD_DT__Vx", 0xF0FF, 0xF015⟩, ⟨"LD_ST__Vx", 0xF0FF, 0xF018⟩, ⟨"ADD_I__Vx", 0xF0FF, 0xF01E⟩] ++
  [⟨"LD_F__Vx", 0xF0FF, 0xF029⟩, ⟨"LD_B__Vx", 0xF0FF, 0xF033⟩, ⟨"LD__I___Vx", 0xF0FF, 0xF055⟩] ++
  [⟨"LD_Vx___I", 0xF0FF, 0xF065⟩]

/-- The word is the row's instruction (R85). -/
def OpcodeRow.matchesWord (r : OpcodeRow) (w : Word) : Bool := w &&& r.mask == r.pattern

/-- The word is a legal encoding: some row matches it; every other word is illegal (30_encoding.md R92). -/
def legalWord (w : Word) : Bool := opcodeMap.any (fun r => r.matchesWord w)

/-- The bits of an opcode that select the instruction or are operands of it (30_encoding.md R84): the rest are the
don't-care fields of R93. -/
def Instr.careMask : Instr → Word
  | .cls | .ret => 0xF0FF
  | .seReg _ _ | .sneReg _ _ => 0xFFF0
  | .shr _ | .shl _ => 0xFF0F
  | .jp _ | .call _ | .ldI _ | .jpV0 _ => 0xFFFF
  | .seImm _ _ | .sneImm _ _ | .ldImm _ _ | .addImm _ _ | .rnd _ _ => 0xFFFF
  | .ldReg _ _ | .orReg _ _ | .andReg _ _ | .xorReg _ _ | .addReg _ _ | .sub _ _ | .subn _ _ => 0xFFFF
  | .drw _ _ _ | .skp _ | .sknp _ => 0xFFFF
  | .ldVxDt _ | .ldVxK _ | .ldDtVx _ | .ldStVx _ | .addI _ | .ldF _ | .ldB _ | .stRegs _ | .ldRegs _ => 0xFFFF

/-- What a choice of the parameters must satisfy (00_scope.md R6). -/
abbrev Params.ok (p : Params) : Prop :=
  Config.fontBase + p.numGlyphs * Config.glyphBytes ≤ p.programStart ∧ p.programStart ≤ p.memSize ∧ p.memSize ≤ 65536 ∧
  8 ≤ p.displayWidth ∧ 1 ≤ p.displayHeight ∧ p.displayWidth ∣ 256 ∧ p.displayHeight ∣ 256 ∧
  p.font.length = p.numGlyphs * Config.glyphBytes

/-- `W * H`, the cells of the display buffer (10_state.md R30). -/
def Params.displayCells (p : Params) : Nat := p.displayWidth * p.displayHeight

/-- An image that `load_rom` accepts (20_memory.md R59, 50_host_interface.md R241). -/
def Params.imageFits (p : Params) (image : List Byte) : Bool := image.length ≤ p.memSize - p.programStart

/-- A key index that `key_down` and `key_up` accept (50_host_interface.md R246, R247). -/
def keyIndexOk (k : Nat) : Bool := k < Config.numKeys

end Sys2Proof
end

