-- ==== Sys2Proof/Decode.lean ====
section
/-!
DEFINITION. The decoder (30_encoding.md R81, R84, R85, R92; 35_cycle.md R102), total on words and on byte strings, and
after it the encoder, written from the formats of R82 and the match column of R85.
-/

namespace Sys2Proof

/-! ## Fields (R81) -/

/-- `F = op[15:12]`, the instruction family. -/
def fieldF (op : Word) : BitVec 4 := op.extractLsb' 12 4

/-- `X = op[11:8]` as a register number. -/
def fieldX (op : Word) : Reg := (op.extractLsb' 8 4).toFin

/-- `Y = op[7:4]` as a register number. -/
def fieldY (op : Word) : Reg := (op.extractLsb' 4 4).toFin

/-- `N = op[3:0]`, the "operation" sub-opcode. -/
def fieldN (op : Word) : BitVec 4 := op.extractLsb' 0 4

/-- `N` as the count of sprite rows of `DXYN`, 0..15 (R83). -/
def fieldHeight (op : Word) : Fin 16 := (fieldN op).toFin

/-- `NN = op[7:0]`, the immediate low byte. -/
def fieldNN (op : Word) : Byte := op.extractLsb' 0 8

/-- `NNN = op[11:0]`, the low 12 bits. -/
def fieldNNN (op : Word) : Addr12 := op.extractLsb' 0 12

/-! ## The decoder -/

/-- Why a string of bytes is no instruction. -/
inductive DecodeReject where
  /-- the word matches no row of the opcode map; carries its low byte (R92) -/
  | opcodeNotFound (nn : Byte)
  /-- fewer than two bytes: an instruction is exactly two (R80) -/
  | truncated
deriving DecidableEq, Repr

/-- Family 0: the selector is `NN`; X is not compared (R84, log 14). -/
def decodeFamily0 (op : Word) : Except DecodeReject Instr :=
  match fieldNN op with
  | 0xE0#8 => .ok .cls
  | 0xEE#8 => .ok .ret
  | nn => .error (.opcodeNotFound nn)

/-- Family 8: the selector is `N` (R84, R86); the shifts ignore Y (R150). -/
def decodeFamily8 (op : Word) : Except DecodeReject Instr :=
  match fieldN op with
  | 0x0#4 => .ok (.ldReg (fieldX op) (fieldY op))
  | 0x1#4 => .ok (.orReg (fieldX op) (fieldY op))
  | 0x2#4 => .ok (.andReg (fieldX op) (fieldY op))
  | 0x3#4 => .ok (.xorReg (fieldX op) (fieldY op))
  | 0x4#4 => .ok (.addReg (fieldX op) (fieldY op))
  | 0x5#4 => .ok (.sub (fieldX op) (fieldY op))
  | 0x6#4 => .ok (.shr (fieldX op))
  | 0x7#4 => .ok (.subn (fieldX op) (fieldY op))
  | 0xE#4 => .ok (.shl (fieldX op))
  | _ => .error (.opcodeNotFound (fieldNN op))

/-- Family E: the selector is `NN` (R84). -/
def decodeFamilyE (op : Word) : Except DecodeReject Instr :=
  match fieldNN op with
  | 0x9E#8 => .ok (.skp (fieldX op))
  | 0xA1#8 => .ok (.sknp (fieldX op))
  | nn => .error (.opcodeNotFound nn)

/-- Family F: the selector is `NN` (R84). -/
def decodeFamilyF (op : Word) : Except DecodeReject Instr :=
  match fieldNN op with
  | 0x07#8 => .ok (.ldVxDt (fieldX op))
  | 0x0A#8 => .ok (.ldVxK (fieldX op))
  | 0x15#8 => .ok (.ldDtVx (fieldX op))
  | 0x18#8 => .ok (.ldStVx (fieldX op))
  | 0x1E#8 => .ok (.addI (fieldX op))
  | 0x29#8 => .ok (.ldF (fieldX op))
  | 0x33#8 => .ok (.ldB (fieldX op))
  | 0x55#8 => .ok (.stRegs (fieldX op))
  | 0x65#8 => .ok (.ldRegs (fieldX op))
  | nn => .error (.opcodeNotFound nn)

/-- The instruction a word is, or its rejection by name (R84, R85, R92). It reads nothing but the word (R102). -/
def decode (op : Word) : Except DecodeReject Instr :=
  match fieldF op with
  | 0x0#4 => decodeFamily0 op
  | 0x1#4 => .ok (.jp (fieldNNN op))
  | 0x2#4 => .ok (.call (fieldNNN op))
  | 0x3#4 => .ok (.seImm (fieldX op) (fieldNN op))
  | 0x4#4 => .ok (.sneImm (fieldX op) (fieldNN op))
  | 0x5#4 => .ok (.seReg (fieldX op) (fieldY op))
  | 0x6#4 => .ok (.ldImm (fieldX op) (fieldNN op))
  | 0x7#4 => .ok (.addImm (fieldX op) (fieldNN op))
  | 0x8#4 => decodeFamily8 op
  | 0x9#4 => .ok (.sneReg (fieldX op) (fieldY op))
  | 0xA#4 => .ok (.ldI (fieldNNN op))
  | 0xB#4 => .ok (.jpV0 (fieldNNN op))
  | 0xC#4 => .ok (.rnd (fieldX op) (fieldNN op))
  | 0xD#4 => .ok (.drw (fieldX op) (fieldY op) (fieldHeight op))
  | 0xE#4 => decodeFamilyE op
  | _ => decodeFamilyF op

/-- Two bytes as a word, the byte at the lower address in the high bits (20_memory.md R51). -/
def wordOfBytes (hi lo : Byte) : Word := hi ++ lo

/-- The bytes of a word as memory holds them: high byte first (R51, R80). -/
def bytesOfWord (w : Word) : Byte × Byte := (w.extractLsb' 8 8, w.extractLsb' 0 8)

/-- The first instruction of a byte string, with the bytes after it (R80: always two bytes, high byte first). -/
def decodeBytes : List Byte → Except DecodeReject (Instr × List Byte)
  | hi :: lo :: rest =>
    match decode (wordOfBytes hi lo) with
    | .ok i => .ok (i, rest)
    | .error r => .error r
  | _ => .error .truncated

/-- The word whose bits spec/opcode_table.json numbers `nbits-1 .. 0`; the bits above `nbits` are 0. -/
def tableWord (nbits w : Nat) : Word := BitVec.ofNat 16 (w % 2 ^ nbits)

/-- The instruction the decoder reads from the two bytes of a table word. -/
def decodeTableWord (nbits w : Nat) : Option Instr :=
  let b := bytesOfWord (tableWord nbits w)
  match decodeBytes [b.1, b.2] with
  | .ok (i, _) => some i
  | .error _ => none

/-! ## The encoder (R82, R85): the canonical spelling, a don't-care field being 0 (R93, R95) -/

/-- A register number, or the sprite height, as the four bits of its field (R81). -/
def regBits (x : Fin 16) : BitVec 4 := BitVec.ofFin x

/-- Format A: family and `NNN`. -/
def formatA (f : BitVec 4) (nnn : Addr12) : Word := f ++ nnn

/-- Formats XI and XS: family, register X, and the low byte (an immediate, or the selector). -/
def formatXI (f : BitVec 4) (x : Reg) (nn : Byte) : Word := f ++ regBits x ++ nn

/-- Formats XY, XYO and XYN: family, registers X and Y, and the low nibble. -/
def formatXYN (f : BitVec 4) (x y : Reg) (n : BitVec 4) : Word := f ++ regBits x ++ regBits y ++ n

/-- The word of an instruction. -/
def encode : Instr → Word
  | .cls => 0x00E0
  | .ret => 0x00EE
  | .jp nnn => formatA 0x1 nnn
  | .call nnn => formatA 0x2 nnn
  | .seImm x nn => formatXI 0x3 x nn
  | .sneImm x nn => formatXI 0x4 x nn
  | .seReg x y => formatXYN 0x5 x y 0x0
  | .ldImm x nn => formatXI 0x6 x nn
  | .addImm x nn => formatXI 0x7 x nn
  | .ldReg x y => formatXYN 0x8 x y 0x0
  | .orReg x y => formatXYN 0x8 x y 0x1
  | .andReg x y => formatXYN 0x8 x y 0x2
  | .xorReg x y => formatXYN 0x8 x y 0x3
  | .addReg x y => formatXYN 0x8 x y 0x4
  | .sub x y => formatXYN 0x8 x y 0x5
  | .shr x => formatXYN 0x8 x 0 0x6
  | .subn x y => formatXYN 0x8 x y 0x7
  | .shl x => formatXYN 0x8 x 0 0xE
  | .sneReg x y => formatXYN 0x9 x y 0x0
  | .ldI nnn => formatA 0xA nnn
  | .jpV0 nnn => formatA 0xB nnn
  | .rnd x nn => formatXI 0xC x nn
  | .drw x y n => formatXYN 0xD x y (regBits n)
  | .skp x => formatXI 0xE x 0x9E
  | .sknp x => formatXI 0xE x 0xA1
  | .ldVxDt x => formatXI 0xF x 0x07
  | .ldVxK x => formatXI 0xF x 0x0A
  | .ldDtVx x => formatXI 0xF x 0x15
  | .ldStVx x => formatXI 0xF x 0x18
  | .addI x => formatXI 0xF x 0x1E
  | .ldF x => formatXI 0xF x 0x29
  | .ldB x => formatXI 0xF x 0x33
  | .stRegs x => formatXI 0xF x 0x55
  | .ldRegs x => formatXI 0xF x 0x65

end Sys2Proof
end

