-- ==== Sys2Proof/Machine/Contents.lean ====
section
/-!
DEFINITION. The default parameters (00_scope.md R6), and what memory and the display hold at reset (10_state.md R37,
20_memory.md R58): also what an address or a cell that the state does not list reads as.
-/

namespace Sys2Proof

/-- `FONT`, default (20_memory.md R58): glyphs 0 to F, five rows each. PRESUMED, unsafe where a claim rests on the
bytes: log 4. -/
def Params.defaultFont : List Byte :=
  [0xF0, 0x90, 0x90, 0x90, 0xF0] ++ [0x20, 0x60, 0x20, 0x20, 0x70] ++
  [0xF0, 0x10, 0xF0, 0x80, 0xF0] ++ [0xF0, 0x10, 0xF0, 0x10, 0xF0] ++
  [0x90, 0x90, 0xF0, 0x10, 0x10] ++ [0xF0, 0x80, 0xF0, 0x10, 0xF0] ++
  [0xF0, 0x80, 0xF0, 0x90, 0xF0] ++ [0xF0, 0x10, 0x20, 0x40, 0x40] ++
  [0xF0, 0x90, 0xF0, 0x90, 0xF0] ++ [0xF0, 0x90, 0xF0, 0x10, 0xF0] ++
  [0xF0, 0x90, 0xF0, 0x90, 0x90] ++ [0xE0, 0x90, 0xE0, 0x90, 0xE0] ++
  [0xF0, 0x80, 0x80, 0x80, 0xF0] ++ [0xE0, 0x90, 0x90, 0x90, 0xE0] ++
  [0xF0, 0x80, 0xF0, 0x80, 0xF0] ++ [0xF0, 0x80, 0xF0, 0x80, 0x80]

/-- The defaults of R6, which its constraints admit. The numbers are the spec's own DESIGN CHOICE (D1 to D3, D11), unsafe
where a claim rests on them: log 1, log 2, log 3, log 14; the font is PRESUMED: log 4. -/
def Params.defaults : Params where
  memSize := 4096
  programStart := 0x200
  displayWidth := 64
  displayHeight := 32
  numGlyphs := 16
  font := Params.defaultFont
  strictDecode := false

/-- What a cell of memory holds at reset (10_state.md R37): the font's byte in the font area, 0 elsewhere (the 0 is a
DESIGN CHOICE of the spec's D5, unsafe: log 5). It is also what an address that `State.mem` does not list reads as. -/
def Params.memReset (p : Params) (a : Nat) : Byte :=
  if Config.fontBase ≤ a ∧ a < Config.fontBase + p.numGlyphs * Config.glyphBytes then p.font.getD (a - Config.fontBase) 0
  else 0

/-- What a cell of the display holds at reset and after `Clear()`: 0 (10_state.md R37, 43_display.md R183). It is also what
a cell that `State.disp` does not list reads as. -/
def Config.displayReset (_ : Nat) : Byte := 0

end Sys2Proof
end

