-- ==== Sys2Proof/Machine/Generator.lean ====
section
/-!
DEFINITION. The pseudo-random generator as far as the spec fixes it (44_keys_timers_random.md R223 to R225). Its constants
are Config's, without a body (R226; log 7).
-/

namespace Sys2Proof.Machine

/-- The generator's state (10_state.md R32, R223): the history `Q`, the carry, the rotating index. -/
structure Rng where
  /-- `Q[0..4095]` -/
  history : Vector Word32 Config.rngN
  /-- the running carry -/
  carry : Word32
  /-- `idx`, 0..4095 -/
  idx : Fin Config.rngN
deriving DecidableEq, Repr

/-- The word that seeding puts into slot `i` (R224): seed, seed + C, seed + 2C, and then the open fill. -/
def seedWord (i : Nat) : Word32 :=
  match i with
  | 0 => Config.rngSeed
  | 1 => Config.rngSeed + Config.rngC
  | 2 => Config.rngSeed + Config.rngC + Config.rngC
  | _ => Config.rngFill i

/-- `new(seed)` with the engine's own seed (R224). -/
def rngSeeded : Rng where
  history := Vector.ofFn (fun k : Fin Config.rngN => seedWord k.val)
  carry := Config.rngCarry0
  idx := Config.rngIndex0

/-- One generation step for a multiplier `a` and a maximum `max` (R225): the state after, and the output. -/
def generatorStep (a : Word64) (max : Word32) (g : Rng) : Rng × Word32 :=
  let idx : Fin Config.rngN := ⟨(g.idx.val + 1) % Config.rngN, Nat.mod_lt _ (by decide)⟩
  let t : Word64 := a * (g.history[idx.val]).setWidth 64 + g.carry.setWidth 64
  let carry : Word32 := (t >>> 32).setWidth 32
  let x : Word32 := t.setWidth 32 + carry
  let wrapped : Bool := x.toNat < carry.toNat
  let x := if wrapped then x + 1 else x
  let carry := if wrapped then carry + 1 else carry
  let out := max - x
  ({ history := g.history.set idx.val out, carry := carry, idx := idx }, out)

/-- `next()` (R225), with the engine's own constants. -/
def rngNext (g : Rng) : Rng × Word32 := generatorStep Config.rngA Config.rngMax g

end Sys2Proof.Machine
end

