-- ==== Sys2Proof/Machine/Plan.lean ====
section
/-!
DEFINITION. The host as plain data (50_host_interface.md R235, R237): the transactions it can apply, and the finite or
infinite sequence of them that it does apply.
-/

namespace Sys2Proof.Machine

/-- The transactions a host can apply (R235): there are no others. -/
inductive Transaction where
  /-- R240 -/
  | construct
  /-- R241 -/
  | loadRom (image : List Byte)
  /-- R242 -/
  | executeCycle
  /-- R245 -/
  | decrementTimer
  /-- R246 -/
  | keyDown (k : Nat)
  /-- R247 -/
  | keyUp (k : Nat)
  /-- R248 -/
  | getDisplay
  /-- R249 -/
  | isSoundActive
  /-- R250 -/
  | getWidth
  /-- R250 -/
  | getHeight
deriving DecidableEq, Repr, Inhabited

/-- What a host applies after the transactions it has listed. -/
inductive HostRest where
  /-- one fixed sequence of one or more transactions, over and over -/
  | loop (first : Transaction) (others : List Transaction)
  /-- anything: each transaction is a free value, so a statement about it holds for every infinite sequence -/
  | free
deriving DecidableEq, Repr

/-- The sequence of transactions a host applies (R237): the listed ones, first one first, and then the rest for ever. A host
that stops is one of which only the first transactions are looked at. -/
structure HostPlan where
  /-- the transactions to come first -/
  listed : List Transaction
  /-- what comes after them -/
  after : HostRest
  /-- how many free transactions were applied, the argument of the free value -/
  turns : Nat
deriving DecidableEq, Repr

end Sys2Proof.Machine

namespace Sys2Proof.Config

/-- The transactions of a host about which nothing is known, by number. A free value: log 10. -/
opaque hostChoice : Nat → Sys2Proof.Machine.Transaction

end Sys2Proof.Config
end

