-- ==== Sys2Proof/Machine/State.lean ====
section
/-!
DEFINITION. The state of the engine (10_state.md R20), what a transaction can end with (60_exceptions.md R266), the
host's transactions (50_host_interface.md R235), and the reset state (10_state.md R37).
-/

namespace Sys2Proof.Machine

/-- The register file `V[0..15]` (R21). -/
abbrev Regs := Vector Byte Config.numRegs

/-- The call stack `STACK[0..15]` (R26). -/
abbrev Stack := Vector Word Config.stackDepth

/-- The display buffer (R30): pixel (x, y) is cell `y * W + x`, one byte a pixel, held as the cells that are not 0, by
rising number. -/
abbrev Display := List Host.Cell

/-- The key state: `true` means down (R31). -/
abbrev Keys := Vector Bool Config.numKeys

/-- Main memory (R29) as the cells that differ from the reset contents `Params.memReset`, by rising address. -/
abbrev Memory := List Host.Cell

/-- The source's four error kinds (R266, codes 1 to 4). Each is an outcome after which the engine goes on (R270), so the
step that ends with one is a NEXT state whose `reply` says so. -/
inductive EngineError where
  /-- code 1: a direct pixel access outside the grid (R182); no transaction can raise it -/
  | pixelOutOfBounds (x y : Nat)
  /-- code 2: a key index of 16 or more (R200, R210, R211, R246, R247) -/
  | keyIndexOutOfBounds (k : Nat)
  /-- code 3: an illegal word, by its low byte (R92, R104) -/
  | opcodeNotFound (nn : Byte)
  /-- code 4: an image that does not fit, by its length (R241) -/
  | romTooLarge (len : Nat)
deriving DecidableEq, Repr

/-- What a transaction hands to the host when it ends (R235, R239). The engine does not keep it (R268): log 8. -/
inductive Reply where
  /-- the transaction completed -/
  | ok
  /-- it ended with an error of the source -/
  | error (e : EngineError)
  /-- what `get_display` returns: the cells of `DISP` in index order (R248) -/
  | display (bytes : List Byte)
  /-- what `is_sound_active` returns (R249) -/
  | soundActive (b : Bool)
  /-- what `get_width` and `get_height` return (R250) -/
  | size (n : Nat)
deriving DecidableEq, Repr

/-- The state: the engine's elements (R20), then the model's own three fields (log 6, log 8, log 10) and the parameters
(log 30). -/
structure State where
  /-- `V[0..15]`; `VF` is `V[15]` (R21, R22) -/
  v : Regs
  /-- `I`, the index register (R23) -/
  i : Word
  /-- `PC` (R24) -/
  pc : Word
  /-- `SP`, the number of return addresses held, 0..16 (R25; log 24) -/
  sp : Fin (Config.stackDepth + 1)
  /-- `STACK[0..15]` (R26) -/
  stack : Stack
  /-- `DT`, the delay timer (R27) -/
  dt : Byte
  /-- `ST`, the sound timer (R28) -/
  st : Byte
  /-- `MEM` (R29) -/
  mem : Memory
  /-- `DISP` (R30) -/
  disp : Display
  /-- `KEY[0..15]` (R31) -/
  keys : Keys
  /-- `RNG`, the random generator's state (R32; log 7) -/
  rng : Rng
  /-- the model's own: how many bytes `CXNN` drew since the machine was made, the argument of a free value (log 6) -/
  draws : Nat
  /-- the model's own: what the last transaction handed to the host (log 8) -/
  reply : Reply
  /-- the model's own: the transactions the host applies from here on (log 10) -/
  host : HostPlan
  /-- the parameters of R6: no step changes them (log 30) -/
  params : Params
deriving DecidableEq, Repr

/-- The spec's three faults (R266, codes 5 to 7): the run has gone wrong and does not go on (R271). Each carries the state
R269 says it leaves. Safe: the model stops where an implementation might go on (log 9). -/
inductive Fault where
  /-- code 5, with the first address past the block: raised by the fetch (R101) and by `DXYN`, `FX33`, `FX55`, `FX65`
  (R55). Safe. -/
  | memoryOutOfBounds (firstPast : Nat) (left : State)
  /-- code 6: raised by `2NNN` with `SP = 16` (R118). Safe. -/
  | stackOverflow (left : State)
  /-- code 7: raised by `00EE` with `SP = 0` (R116). Safe. -/
  | stackUnderflow (left : State)
deriving DecidableEq, Repr

/-- Why a step has no outcome. No instruction of the table is without a meaning. -/
inductive Refusal where
  /-- raised by an arm of `exec` that has no meaning yet. Safe: the model stops where the engine goes on. -/
  | notModelled (mnemonic : String)
  /-- raised by a cycle that fetches a non-canonical spelling when `STRICT_DECODE` is true (30_encoding.md R93), and never
  when it is false, its default. Safe: the model stops where the engine goes on (log 14). -/
  | nonCanonicalWord (op : Word)
deriving DecidableEq, Repr

/-- What a step or a meaning answers. -/
abbrev Result := Host.Outcome State Fault Refusal

/-- The reset state (R37, R240) of an engine with the given parameters: what `construct` produces. The zeros of `V`, `I`,
`STACK`, `DT`, `ST` and of free memory and all keys up are the spec's D5, DESIGN CHOICE, unsafe (log 5); `reply`, `draws` and
`host` are the model's own (log 6, log 8, log 10): the host applies cycles, and nothing else, until it is given another
plan. -/
def State.resetWith (p : Params) : State where
  v := Vector.replicate _ 0
  i := 0
  pc := BitVec.ofNat 16 p.programStart
  sp := 0
  stack := Vector.replicate _ 0
  dt := 0
  st := 0
  mem := []
  disp := []
  keys := Vector.replicate _ false
  rng := rngSeeded
  draws := 0
  reply := .ok
  host := { listed := [], after := .loop .executeCycle [], turns := 0 }
  params := p

/-- The reset state with the default parameters (R6). -/
def State.reset : State := State.resetWith Params.defaults

end Sys2Proof.Machine
end

