-- ==== Sys2Proof/Machine/Ops.lean ====
section
/-!
DEFINITION. The named operations over memory, registers and the rest of the state, and the one operation that raises an
outcome (00_scope.md R9 to R11).
-/

namespace Sys2Proof.Machine

/-! ## Bytes held as the cells that differ from a base: memory and the display -/

/-- The byte at an address: the listed one, else the base's. -/
def cellsGet (base : Nat → Byte) : List Host.Cell → Nat → Byte
  | [], a => base a
  | (k, b) :: rest, a => if k = a then b else cellsGet base rest a

/-- List a byte at an address, keeping the addresses rising. -/
def cellsInsert : List Host.Cell → Nat → Byte → List Host.Cell
  | [], a, b => [(a, b)]
  | (k, c) :: rest, a, b =>
    if a < k then (a, b) :: (k, c) :: rest
    else if a = k then (a, b) :: rest
    else (k, c) :: cellsInsert rest a b

/-- Take an address off the list. -/
def cellsErase (m : List Host.Cell) (a : Nat) : List Host.Cell := m.filter (fun c => c.1 != a)

/-- Put a byte at an address: the base's own byte is not listed. -/
def cellsPut (base : Nat → Byte) (m : List Host.Cell) (a : Nat) (b : Byte) : List Host.Cell :=
  if b = base a then cellsErase m a else cellsInsert m a b

/-- The canonical form: addresses strictly rising and below the size, and no cell that holds the base's byte. -/
abbrev cellsWf (base : Nat → Byte) (size : Nat) (m : List Host.Cell) : Prop :=
  m.Pairwise (fun c d => c.1 < d.1) ∧ ∀ c ∈ m, c.1 < size ∧ c.2 ≠ base c.1

/-! ## Memory (R10, 10_state.md R29)

Memory is read and written relative to the reset contents, which the parameters fix. -/

/-- `MEM[a]`. -/
def Memory.read (m : Memory) (p : Params) (a : Nat) : Byte := cellsGet p.memReset m a

/-- `MEM[a] <- b`. -/
def Memory.write (m : Memory) (p : Params) (a : Nat) (b : Byte) : Memory := cellsPut p.memReset m a b

/-- Write bytes at consecutive addresses, in ascending order. -/
def Memory.writeBlock (m : Memory) (p : Params) (a : Nat) : List Byte → Memory
  | [] => m
  | b :: bs => (m.write p a b).writeBlock p (a + 1) bs

/-- Read `n` bytes from consecutive addresses, in ascending order. -/
def Memory.readBlock (m : Memory) (p : Params) (a n : Nat) : List Byte := (List.range n).map (fun k => m.read p (a + k))

/-- The canonical form of memory. -/
abbrev Memory.wf (m : Memory) (p : Params) : Prop := cellsWf p.memReset p.memSize m

/-! ## The display buffer (10_state.md R30) -/

/-- `DISP[k]`. -/
def Display.cell (d : Display) (k : Nat) : Byte := cellsGet Config.displayReset d k

/-- `DISP[k] <- b`. -/
def Display.setCell (d : Display) (k : Nat) (b : Byte) : Display := cellsPut Config.displayReset d k b

/-- The cells of `DISP` in index order. -/
def Display.bytes (d : Display) (p : Params) : List Byte := (List.range p.displayCells).map (fun k => d.cell k)

/-- The canonical form of the display. -/
abbrev Display.wf (d : Display) (p : Params) : Prop := cellsWf Config.displayReset p.displayCells d

/-! ## Registers and the other elements (R9) -/

/-- `VF` is `V[15]` (10_state.md R22). -/
def regVF : Reg := 15

/-- `V[x]`. -/
def State.reg (s : State) (x : Reg) : Byte := s.v[x.val]

/-- `V[x] <- b`. -/
def State.setReg (s : State) (x : Reg) (b : Byte) : State := { s with v := s.v.set x.val b }

/-- `VF <- b`. -/
def State.setVF (s : State) (b : Byte) : State := s.setReg regVF b

/-- Replace the register file. -/
def State.setRegs (s : State) (v : Regs) : State := { s with v := v }

/-- `I <- w`. -/
def State.setI (s : State) (w : Word) : State := { s with i := w }

/-- `PC <- w`. -/
def State.setPc (s : State) (w : Word) : State := { s with pc := w }

/-- `DT <- b`. -/
def State.setDt (s : State) (b : Byte) : State := { s with dt := b }

/-- `ST <- b`. -/
def State.setSt (s : State) (b : Byte) : State := { s with st := b }

/-- Replace memory. -/
def State.setMem (s : State) (m : Memory) : State := { s with mem := m }

/-- Replace the display buffer. -/
def State.setDisp (s : State) (d : Display) : State := { s with disp := d }

/-- Replace the key state. -/
def State.setKeys (s : State) (k : Keys) : State := { s with keys := k }

/-- Replace the stack and its pointer. -/
def State.setStack (s : State) (sp : Fin (Config.stackDepth + 1)) (stack : Stack) : State :=
  { s with sp := sp, stack := stack }

/-- One byte drawn: the generator made one call of `next()` (R222) and the free value is another one from now on. -/
def State.countDraw (s : State) : State := { s with rng := (rngNext s.rng).1, draws := s.draws + 1 }

/-- What the transaction hands to the host. -/
def State.setReply (s : State) (r : Reply) : State := { s with reply := r }

/-- What the host applies from here on. -/
def State.setHost (s : State) (h : HostPlan) : State := { s with host := h }

/-- `MEM[a]` of the state. -/
def State.read (s : State) (a : Nat) : Byte := s.mem.read s.params a

/-- `n` bytes of the state's memory from consecutive addresses. -/
def State.readBlock (s : State) (a n : Nat) : List Byte := s.mem.readBlock s.params a n

/-- Write bytes at consecutive addresses of the state's memory. -/
def State.writeBlock (s : State) (a : Nat) (bs : List Byte) : State := s.setMem (s.mem.writeBlock s.params a bs)

/-- A skip: `PC <- PC +_16 2` once more when the condition holds (00_scope.md R12, 35_cycle.md R103). -/
def State.skipIf (s : State) (c : Bool) : State := if c then s.setPc (s.pc + 2) else s

/-- The advance before dispatch: `PC <- a +_16 2` (35_cycle.md R103). -/
def State.advance (s : State) : State := s.setPc (s.pc + 2)

/-! ## Ends of a transaction (R11) -/

/-- The seven outcomes other than `Ok` (60_exceptions.md R266). -/
inductive Failure where
  | error (e : EngineError)
  | memoryOutOfBounds (firstPast : Nat)
  | stackOverflow
  | stackUnderflow
deriving DecidableEq, Repr

/-- The codes of R266 (the spec's D12; log 26). -/
def Failure.code : Failure → Nat
  | .error (.pixelOutOfBounds _ _) => 1
  | .error (.keyIndexOutOfBounds _) => 2
  | .error (.opcodeNotFound _) => 3
  | .error (.romTooLarge _) => 4
  | .memoryOutOfBounds _ => 5
  | .stackOverflow => 6
  | .stackUnderflow => 7

/-- The outcome `Ok` (R11, R100). -/
def complete (s : State) : Result := .next (s.setReply .ok)

/-- `raise E(info)` (R11): the transaction ends at once and what was written stays written. An error is handed to the host
and the engine goes on from that state (R270); a fault ends the run and leaves that state (R269, R271). This is the only
way a failure arises: the engine has no handler, vector or saved register (R265). -/
def raise (f : Failure) (s : State) : Result :=
  match f with
  | .error e => .next (s.setReply (.error e))
  | .memoryOutOfBounds firstPast => .fault (.memoryOutOfBounds firstPast s)
  | .stackOverflow => .fault (.stackOverflow s)
  | .stackUnderflow => .fault (.stackUnderflow s)

/-- `CheckBlock(addr, n)` (R10, 20_memory.md R55): go on with `k` when the block lies inside memory, `n = 0` included;
else raise `MemoryOutOfBounds(addr + n)`. `addr` is an unbounded integer (R54). -/
def checkBlock (addr n : Nat) (s : State) (k : Result) : Result :=
  if addr + n ≤ s.params.memSize then k else raise (.memoryOutOfBounds (addr + n)) s

/-- `KeyGet(k)` (44_keys_timers_random.md R200): go on with `KEY[k]` when `k < 16`; else raise
`KeyIndexOutOfBounds(k)`. -/
def keyGet (s : State) (k : Nat) (f : Bool → Result) : Result :=
  if h : k < Config.numKeys then f s.keys[k] else raise (.error (.keyIndexOutOfBounds k)) s

end Sys2Proof.Machine
end

