-- ==== Sys2Proof/Machine/Flags.lean ====
section
/-!
DEFINITION. Every value the engine writes to `VF` as a side effect (10_state.md R22, 41_load_and_alu.md R136), and the
order of the result's and the flag's writes (R137).
-/

namespace Sys2Proof.Machine

/-- `bool(c)` as a byte: 1 when the condition holds, else 0 (00_scope.md R8). -/
def flagOf (c : Bool) : Byte := if c then 1 else 0

/-- The carry of `x + y`: 1 if the exact sum passes 255 (R141, R146). -/
def carryFlag (x y : Byte) : Byte := flagOf (decide (x.toNat + y.toNat > 255))

/-- The inverse of the borrow of `x - y`: 1 if `x >= y` (R147, R149). -/
def noBorrowFlag (x y : Byte) : Byte := flagOf (decide (x.toNat ≥ y.toNat))

/-- The bit a right shift puts out: 0 or 1 (R148). -/
def lsbFlag (x : Byte) : Byte := x &&& 0x01

/-- The bit a left shift puts out, not normalised: 0x00 or 0x80 (R151). -/
def msbFlag (x : Byte) : Byte := x &&& 0x80

/-- A result in `V[x]`, the flag register as it was. -/
def writeResult (x : Reg) (r : Byte) (s : State) : Result := complete (s.setReg x r)

/-- A result in `V[x]` and then a flag in `VF`, both computed beforehand: with `x = 15` the flag is what remains (R137,
the spec's D8; DESIGN CHOICE, unsafe: log 11). -/
def writeResultAndFlag (x : Reg) (r flag : Byte) (s : State) : Result := complete ((s.setReg x r).setVF flag)

end Sys2Proof.Machine
end

