-- ==== Sys2Proof/Machine/Alu.lean ====
section
/-!
DEFINITION. Register loads and arithmetic (41_load_and_alu.md). Operands are read before anything is written (R137).
-/

namespace Sys2Proof.Machine

/-- `6XNN` LD Vx, nn (R140). -/
def execLdImm (x : Reg) (nn : Byte) (s : State) : Result := writeResult x nn s

/-- `7XNN` ADD Vx, nn (R141): the flag is written on every execution. -/
def execAddImm (x : Reg) (nn : Byte) (s : State) : Result :=
  writeResultAndFlag x (s.reg x + nn) (carryFlag (s.reg x) nn) s

/-- `8XY0` LD Vx, Vy (R142). -/
def execLdReg (x y : Reg) (s : State) : Result := writeResult x (s.reg y) s

/-- `8XY1` OR Vx, Vy (R143): `VF` is not written (D27, log 20). -/
def execOrReg (x y : Reg) (s : State) : Result := writeResult x (s.reg x ||| s.reg y) s

/-- `8XY2` AND Vx, Vy (R144): `VF` is not written (D27, log 20). -/
def execAndReg (x y : Reg) (s : State) : Result := writeResult x (s.reg x &&& s.reg y) s

/-- `8XY3` XOR Vx, Vy (R145): `VF` is not written (D27, log 20). -/
def execXorReg (x y : Reg) (s : State) : Result := writeResult x (s.reg x ^^^ s.reg y) s

/-- `8XY4` ADD Vx, Vy (R146). -/
def execAddReg (x y : Reg) (s : State) : Result :=
  writeResultAndFlag x (s.reg x + s.reg y) (carryFlag (s.reg x) (s.reg y)) s

/-- `8XY5` SUB Vx, Vy (R147). -/
def execSub (x y : Reg) (s : State) : Result :=
  writeResultAndFlag x (s.reg x - s.reg y) (noBorrowFlag (s.reg x) (s.reg y)) s

/-- `8XY6` SHR Vx (R148): `V[X]` alone is shifted (R150; D9, log 12). -/
def execShr (x : Reg) (s : State) : Result := writeResultAndFlag x (s.reg x >>> 1) (lsbFlag (s.reg x)) s

/-- `8XY7` SUBN Vx, Vy (R149). -/
def execSubn (x y : Reg) (s : State) : Result :=
  writeResultAndFlag x (s.reg y - s.reg x) (noBorrowFlag (s.reg y) (s.reg x)) s

/-- `8XYE` SHL Vx (R151): `V[X]` alone is shifted (R150; D9, log 12), and the flag is 0x80 or 0x00. -/
def execShl (x : Reg) (s : State) : Result := writeResultAndFlag x (s.reg x <<< 1) (msbFlag (s.reg x)) s

end Sys2Proof.Machine
end

