-- ==== Sys2Proof/Machine/Operands.lean ====
section
/-!
DEFINITION. The operand forms (30_encoding.md R83, 42_index_and_memory.md R160): zero-extended immediates, the effective
address `I + k`, and the register ranges and digits that the block instructions move.
-/

namespace Sys2Proof.Machine

/-- `zext_16(NNN)` (R83). -/
def zextAddr (nnn : Addr12) : Word := nnn.setWidth 16

/-- `zext_16(v)` of a register value (R119, R164, R165). -/
def zextByte (b : Byte) : Word := b.setWidth 16

/-- The base of every data address: `I` as an unbounded integer (20_memory.md R54). -/
def dataBase (s : State) : Nat := s.i.toNat

/-- The number of registers that `FX55` and `FX65` move: `X + 1` (R167, R168). -/
def rangeCount (x : Reg) : Nat := x.val + 1

/-- `V[0] .. V[X]` in ascending order (R167). -/
def regRange (s : State) (x : Reg) : List Byte := s.v.toList.take (rangeCount x)

/-- `V[k] <- MemRead(base + k, 1)` for `k` in `0 .. n-1`, ascending (R168). -/
def loadRange (s : State) (base : Nat) : Nat → Regs → Regs
  | 0, v => v
  | n + 1, v => (loadRange s base n v).setIfInBounds n (s.read (base + n))

/-- The three decimal digits of a byte: hundreds, tens, ones (R166). -/
def bcdDigits (b : Byte) : List Byte :=
  [BitVec.ofNat 8 (b.toNat / 100), BitVec.ofNat 8 (b.toNat / 10 % 10), BitVec.ofNat 8 (b.toNat % 10)]

/-- The address of the font glyph for a register value: `V[X] * GLYPH_BYTES`, the whole value, not masked (R165, log 17). -/
def glyphAddr (b : Byte) : Word := BitVec.ofNat 16 (b.toNat * Config.glyphBytes)

end Sys2Proof.Machine
end

