-- ==== Sys2Proof/Machine/Control.lean ====
section
/-!
DEFINITION. Control transfer (40_control_flow.md). In every meaning `PC` already holds `a + 2` (35_cycle.md R103).
-/

namespace Sys2Proof.Machine

/-- `00EE` RET (R116): the pointer goes down first, then the slot is read. With `SP = 0`: `StackUnderflow` (log 24). -/
def execRet (s : State) : Result :=
  if h : s.sp.val = 0 then raise .stackUnderflow s
  else
    let top := s.sp.val - 1
    complete ((s.setStack ⟨top, by omega⟩ s.stack).setPc (s.stack[top]'(by omega)))

/-- `1NNN` JP nnn (R117). -/
def execJp (nnn : Addr12) (s : State) : Result := complete (s.setPc (zextAddr nnn))

/-- `2NNN` CALL nnn (R118): `PC`, already advanced, goes to slot `SP`, and the pointer goes up after. With `SP = 16`:
`StackOverflow` (log 24). -/
def execCall (nnn : Addr12) (s : State) : Result :=
  if h : s.sp.val < Config.stackDepth then
    complete ((s.setStack ⟨s.sp.val + 1, by omega⟩ (s.stack.set s.sp.val s.pc)).setPc (zextAddr nnn))
  else raise .stackOverflow s

/-- `3XNN` SE Vx, nn (R120). -/
def execSeImm (x : Reg) (nn : Byte) (s : State) : Result := complete (s.skipIf (s.reg x == nn))

/-- `4XNN` SNE Vx, nn (R121). -/
def execSneImm (x : Reg) (nn : Byte) (s : State) : Result := complete (s.skipIf (s.reg x != nn))

/-- `5XY_` SE Vx, Vy (R122). -/
def execSeReg (x y : Reg) (s : State) : Result := complete (s.skipIf (s.reg x == s.reg y))

/-- `9XY_` SNE Vx, Vy (R123). -/
def execSneReg (x y : Reg) (s : State) : Result := complete (s.skipIf (s.reg x != s.reg y))

/-- `BNNN` JP V0, nnn (R119): the register is always `V[0]`, and the sum is not cut to 12 bits (log 17). -/
def execJpV0 (nnn : Addr12) (s : State) : Result := complete (s.setPc (zextAddr nnn + zextByte (s.reg 0)))

end Sys2Proof.Machine
end

