-- ==== Sys2Proof/Machine/Index.lean ====
section
/-!
DEFINITION. The index register and memory transfer (42_index_and_memory.md). No meaning here changes `VF` implicitly
(R162), and the transfers leave `I` alone (R161; D10, log 13).
-/

namespace Sys2Proof.Machine

/-- `ANNN` LD I, nnn (R163). -/
def execLdI (nnn : Addr12) (s : State) : Result := complete (s.setI (zextAddr nnn))

/-- `FX1E` ADD I, Vx (R164): the wrap is at 16 bits. -/
def execAddI (x : Reg) (s : State) : Result := complete (s.setI (s.i + zextByte (s.reg x)))

/-- `FX29` LD F, Vx (R165). -/
def execLdF (x : Reg) (s : State) : Result := complete (s.setI (glyphAddr (s.reg x)))

/-- `FX33` LD B, Vx (R166). -/
def execLdB (x : Reg) (s : State) : Result :=
  checkBlock (dataBase s) 3 s (complete (s.writeBlock (dataBase s) (bcdDigits (s.reg x))))

/-- `FX55` LD [I], Vx (R167). -/
def execStRegs (x : Reg) (s : State) : Result :=
  checkBlock (dataBase s) (rangeCount x) s (complete (s.writeBlock (dataBase s) (regRange s x)))

/-- `FX65` LD Vx, [I] (R168). -/
def execLdRegs (x : Reg) (s : State) : Result :=
  checkBlock (dataBase s) (rangeCount x) s
    (complete (s.setRegs (loadRange s (dataBase s) (rangeCount x) s.v)))

end Sys2Proof.Machine
end

