-- ==== Sys2Proof/Machine/Input.lean ====
section
/-!
DEFINITION. Keys and timers (44_keys_timers_random.md).
-/

namespace Sys2Proof.Machine

/-- The lowest-numbered key that is down: the scan of `FX0A`, ascending (R212; D16, log 16). -/
def firstKeyDown (keys : Keys) : Option Nat := keys.toList.findIdx? (fun down => down)

/-- `EX9E` SKP Vx (R210): the register value is used whole; 16 or more raises `KeyIndexOutOfBounds` (D15, log 15). -/
def execSkp (x : Reg) (s : State) : Result := keyGet s (s.reg x).toNat (fun down => complete (s.skipIf down))

/-- `EXA1` SKNP Vx (R211), with the same check. -/
def execSknp (x : Reg) (s : State) : Result := keyGet s (s.reg x).toNat (fun down => complete (s.skipIf (!down)))

/-- `FX07` LD Vx, DT (R213). -/
def execLdVxDt (x : Reg) (s : State) : Result := writeResult x s.dt s

/-- `FX0A` LD Vx, K (R212): back to the instruction itself; with a key down, its index and on again. The cycle never
blocks: with no key down it ends `Ok` at `a`. -/
def execLdVxK (x : Reg) (s : State) : Result :=
  let back := s.setPc (s.pc - 2)
  match firstKeyDown s.keys with
  | none => complete back
  | some k => complete ((back.setReg x (BitVec.ofNat 8 k)).setPc (back.pc + 2))

/-- `FX15` LD DT, Vx (R214). -/
def execLdDtVx (x : Reg) (s : State) : Result := complete (s.setDt (s.reg x))

/-- `FX18` LD ST, Vx (R215). -/
def execLdStVx (x : Reg) (s : State) : Result := complete (s.setSt (s.reg x))

end Sys2Proof.Machine
end

