-- ==== Sys2Proof/Machine/Random.lean ====
section
/-!
DEFINITION. The one instruction that the random generator feeds (44_keys_timers_random.md R222).
-/

namespace Sys2Proof.Machine

/-- `random_byte()` (R222): the byte the next draw delivers, from the output of the generator's next call. A free value:
`Config.randByte` has no body, and every draw applies it to another number (log 6). -/
def drawnByte (s : State) : Byte := Config.randByte s.draws (rngNext s.rng).2

/-- `CXNN` RND Vx, nn (R222): one call of `next()` each (D14, log 7). -/
def execRnd (x : Reg) (nn : Byte) (s : State) : Result := writeResult x (drawnByte s &&& nn) s.countDraw

end Sys2Proof.Machine
end

