-- ==== Sys2Proof/Machine/Screen.lean ====
section
/-!
DEFINITION. The display buffer and its two instructions (43_display.md).
-/

namespace Sys2Proof.Machine

/-- The cell of pixel (x, y), row-major (R181). -/
def pixelIndex (p : Params) (x y : Nat) : Nat := y * p.displayWidth + x

/-- `PixelGet(x, y)` (R182): bounds-checked. -/
def pixelGet (p : Params) (d : Display) (x y : Nat) : Except EngineError Byte :=
  if x < p.displayWidth ∧ y < p.displayHeight then .ok (d.cell (pixelIndex p x y))
  else .error (.pixelOutOfBounds x y)

/-- `PixelSet(x, y, b)` (R182): bounds-checked. -/
def pixelSet (p : Params) (d : Display) (x y : Nat) (b : Byte) : Except EngineError Display :=
  if x < p.displayWidth ∧ y < p.displayHeight then .ok (d.setCell (pixelIndex p x y) b)
  else .error (.pixelOutOfBounds x y)

/-- `Clear()` (R183): every pixel 0. -/
def clearDisplay : Display := []

/-- The pixels under the set bits of one sprite row drawn at (x, y), left to right: bit `7 - c` is column `c` (R184), and
each coordinate wraps by itself (R186; the sums are unbounded, D20, log 19). -/
def rowPixels (p : Params) (x y : Nat) (b : Byte) : List (Nat × Nat) :=
  ((List.range 8).filter (fun c => b.getLsbD (7 - c))).map
    (fun c => ((x + c) % p.displayWidth, y % p.displayHeight))

/-- The pixels under the set bits of a sprite drawn at (x, y), row by row from the top (R184, R187). -/
def spritePixels (p : Params) (x y : Nat) : List Byte → List (Nat × Nat)
  | [] => []
  | b :: rows => rowPixels p x y b ++ spritePixels p x (y + 1) rows

/-- Toggle the given pixels in order; the flag says whether one of them was found lit (R185, R187). -/
def togglePixels (p : Params) : List (Nat × Nat) → Display → Bool → Except EngineError (Display × Bool)
  | [], d, collision => .ok (d, collision)
  | (px, py) :: rest, d, collision =>
    match pixelGet p d px py with
    | .error e => .error e
    | .ok old =>
      match pixelSet p d px py (old ^^^ 1) with
      | .error e => .error e
      | .ok d' => togglePixels p rest d' (collision || old == 1)

/-- `Draw(x, y, sprite)` (R187): the display after, and the collision. -/
def drawSprite (p : Params) (x y : Nat) (sprite : List Byte) (d : Display) : Except EngineError (Display × Bool) :=
  togglePixels p (spritePixels p x y sprite) d false

/-- `00E0` CLS (R188): `VF` is not written. -/
def execCls (s : State) : Result := complete (s.setDisp clearDisplay)

/-- `DXYN` DRW Vx, Vy, n (R189): the whole block is checked first, the coordinates are read before `VF` is written, and
`VF` becomes 1 on a collision, else 0 (D26, log 19). `PixelOutOfBounds` would be passed on and cannot occur (R182). -/
def execDrw (x y : Reg) (n : Fin 16) (s : State) : Result :=
  checkBlock (dataBase s) n.val s
    (match drawSprite s.params (s.reg x).toNat (s.reg y).toNat (s.readBlock (dataBase s) n.val) s.disp with
      | .error e => raise (.error e) s
      | .ok (d, collision) => complete ((s.setDisp d).setVF (flagOf collision)))

end Sys2Proof.Machine
end

