-- ==== Sys2Proof/Machine/Cycle.lean ====
section
/-!
DEFINITION. The execute cycle: fetch, decode, advance, dispatch (35_cycle.md R100 to R106).
-/

namespace Sys2Proof.Machine

/-- `op = MEM[PC] * 256 + MEM[PC + 1]` (R101): the byte at the lower address in the high bits; `PC` may be odd
(20_memory.md R53; D21, log 18). -/
def fetchWord (s : State) : Word := wordOfBytes (s.read s.pc.toNat) (s.read (s.pc.toNat + 1))

/-- The parameters leave the word, decoded to `i`, outside the programs the model speaks about: `STRICT_DECODE` is true and
the word is not the canonical spelling (30_encoding.md R93; log 14). -/
def outsideStrictDecode (p : Params) (op : Word) (i : Instr) : Bool := p.strictDecode && encode i != op

/-- `execute_cycle()` (R100): the fetch is checked before anything changes (R101), the program counter advances for every
word, legal or not (R103), an illegal word raises `OpcodeNotFound` after the advance (R104), and a legal one is run. -/
def executeCycle (s : State) : Result :=
  checkBlock s.pc.toNat 2 s
    (match decode (fetchWord s) with
      | .ok i =>
        if outsideStrictDecode s.params (fetchWord s) i then .refused (.nonCanonicalWord (fetchWord s))
        else exec i s.advance
      | .error _ => raise (.error (.opcodeNotFound (fieldNN (fetchWord s)))) s.advance)

end Sys2Proof.Machine
end

