-- ==== Sys2Proof/Machine/Transactions.lean ====
section
/-!
DEFINITION. The host interface (50_host_interface.md): the effect of every transaction.
-/

namespace Sys2Proof.Machine

/-- Every element of the engine at its reset value (R240, R241, 70_reset_and_hazards.md R295, R296). What is not the engine's
goes on: the host's plan, the count of bytes drawn, and the parameters (log 6, log 10, log 30). -/
def resetEngine (s : State) : State := { State.resetWith s.params with draws := s.draws, host := s.host }

/-- `construct()` (R240): the power-on reset; it cannot fail. -/
def construct (s : State) : Result := complete (resetEngine s)

/-- `load_rom(image)` (R241): the size test comes first and a failing load changes nothing (D22, log 21); else a full
reset, the font with it, and then the image at `PROGRAM_START`. -/
def loadRom (image : List Byte) (s : State) : Result :=
  if s.params.imageFits image then complete ((resetEngine s).writeBlock s.params.programStart image)
  else raise (.error (.romTooLarge image.length)) s

/-- A timer's count one tick later: down by 1, or 0 if it was 0 (10_state.md R27). -/
def tick (b : Byte) : Byte := if b = 0 then 0 else b - 1

/-- `decrement_timer()` (R245): one tick of both timers; it never fails (D24, log 22). -/
def decrementTimer (s : State) : Result := complete ((s.setDt (tick s.dt)).setSt (tick s.st))

/-- `KEY[k] <- down`, for the host's key events: an index of 16 or more is refused and changes nothing (R246, R247). -/
def keyEvent (k : Nat) (down : Bool) (s : State) : Result :=
  if keyIndexOk k then complete (s.setKeys (s.keys.setIfInBounds k down))
  else raise (.error (.keyIndexOutOfBounds k)) s

/-- `get_display()` (R248): the cells of `DISP` in index order. -/
def getDisplay (s : State) : Result := .next (s.setReply (.display (s.disp.bytes s.params)))

/-- `is_sound_active()` (R249): `ST` is not 0 (D18, log 22). -/
def isSoundActive (s : State) : Result := .next (s.setReply (.soundActive (s.st != 0)))

/-- The effect of a transaction. Each is one indivisible step (R236). -/
def transact (t : Transaction) (s : State) : Result :=
  match t with
  | .construct => construct s
  | .loadRom image => loadRom image s
  | .executeCycle => executeCycle s
  | .decrementTimer => decrementTimer s
  | .keyDown k => keyEvent k true s
  | .keyUp k => keyEvent k false s
  | .getDisplay => getDisplay s
  | .isSoundActive => isSoundActive s
  | .getWidth => .next (s.setReply (.size s.params.displayWidth))
  | .getHeight => .next (s.setReply (.size s.params.displayHeight))

/-- The transaction the host applies next, and its plan after it (R237; log 10). -/
def HostPlan.next (h : HostPlan) : Transaction × HostPlan :=
  match h.listed with
  | t :: rest => (t, { h with listed := rest })
  | [] =>
    match h.after with
    | .loop t others => (t, { h with listed := others })
    | .free => (Config.hostChoice h.turns, { h with turns := h.turns + 1 })

/-- Where the engine fetches, if two bytes fit there; else the program origin. -/
def fetchPlace (s : State) : Word :=
  if s.pc.toNat + 2 ≤ s.params.memSize then s.pc else BitVec.ofNat 16 s.params.programStart

/-- The plan with a cycle first and then this plan; a plan that has a cycle next and then itself stays as it is. -/
def HostPlan.withCycleFirst (h : HostPlan) : HostPlan :=
  if h.next = (.executeCycle, h) then h else { h with listed := .executeCycle :: h.listed }

/-- `s` with a word stored where the next cycle fetches it, high byte first, and with that cycle as what the host applies
first (log 27). -/
def placeWord (s : State) (w : Word) : State :=
  let b := bytesOfWord w
  let a := fetchPlace s
  ((s.setPc a).writeBlock a.toNat [b.1, b.2]).setHost s.host.withCycleFirst

end Sys2Proof.Machine
end

