-- ==== Sys2Proof/Machine/Step.lean ====
section
/-!
DEFINITION. One step of the machine: the next transaction of the host (50_host_interface.md R236, R237), which is
`execute_cycle` unless the host's plan says otherwise (log 10).
-/

namespace Sys2Proof.Machine

/-- One transaction. -/
def step (s : State) : Host.Outcome State Fault Refusal :=
  transact s.host.next.1 (s.setHost s.host.next.2)

/-- `s` with the instruction of a table word stored where `step` fetches, so that the very next step runs it (log 27). -/
def State.withFetchWord (s : State) (nbits w : Nat) : State := placeWord s (tableWord nbits w)

end Sys2Proof.Machine
end

