-- ==== Sys2Proof/Safety.lean ====
section
/-!
DEFINITION. The terms claims are stated in: what a good state and a good run are, when a run has ended, which element an
instruction may write, and that everything else of a state is unchanged.
-/

namespace Sys2Proof.Machine

/-! ## The invariant -/

/-- Every pixel is 0 or 1 (10_state.md R30). -/
def Display.binary (d : Display) : Prop := ∀ k, d.cell k = 0 ∨ d.cell k = 1

/-- What holds of every state the engine can be in: the parameters satisfy their constraints (00_scope.md R6), memory and
the display are in canonical form, and every pixel is 0 or 1. (That `SP` is at most 16, R25, and that a register is a number
in 0..255, R21, are in the types.) -/
def State.Inv (s : State) : Prop := s.params.ok ∧ s.mem.wf s.params ∧ s.disp.wf s.params ∧ s.disp.binary

/-- The state a fault leaves (60_exceptions.md R269). -/
def Fault.leftState : Fault → State
  | .memoryOutOfBounds _ left => left
  | .stackOverflow left => left
  | .stackUnderflow left => left

/-- A good step: it ends in a next state and the host gets no error (R270, R271: an error or a fault ends a good run). -/
def State.GoodStep (s t : State) : Prop := step s = .next t ∧ ∀ e, t.reply ≠ .error e

/-! ## What hosts can do (50_host_interface.md R237) -/

/-- The infinite sequence of transactions that a plan stands for. -/
def HostPlan.seq (h : HostPlan) : Nat → Transaction
  | 0 => h.next.1
  | n + 1 => h.next.2.seq n

/-- What the first `n` transactions of any sequence whatever bring about, the plan in the state being left alone: no
transaction need ever come, or come again. -/
def hostRun (h : Nat → Transaction) : Nat → State → Result
  | 0, s => .next s
  | n + 1, s =>
    match transact (h 0) s with
    | .next t => hostRun (fun k => h (k + 1)) n t
    | .fault f => .fault f
    | .refused r => .refused r

/-- The states that some host can bring about from a state, by any finite sequence of transactions, whatever they hand to
the host. -/
inductive Reachable (s : State) : State → Prop where
  | refl : Reachable s s
  | tail {t u : State} (x : Transaction) : Reachable s t → transact x t = .next u → Reachable s u

/-! ## The end of a run -/

/-- A RUN HAS ENDED (70_reset_and_hazards.md R302, the spec's D23; log 29): the next instruction can be fetched and is a
jump to its own address. It does not say that the engine stops. -/
abbrev State.RunEnded (s : State) : Prop :=
  s.pc.toNat ≤ 0x0FFF ∧ s.pc.toNat + 2 ≤ s.params.memSize ∧ fetchWord s = 0x1000 ||| s.pc

/-! ## Frames -/

/-- The elements of 10_state.md R20 that an instruction can write; RNG goes with the model's count of bytes drawn. `PC`
is left out, as in the access matrix R36. -/
inductive Element where
  | reg (r : Reg) | index | stack | delay | sound | memory | display | keys | rng
deriving DecidableEq, Repr

/-- The element is the same in both states; memory and the display are compared cell by
cell. -/
def SameElement (e : Element) (s t : State) : Prop :=
  match e with
  | .reg r => t.reg r = s.reg r
  | .index => t.i = s.i
  | .stack => t.sp = s.sp ∧ t.stack = s.stack
  | .delay => t.dt = s.dt
  | .sound => t.st = s.st
  | .memory => ∀ a, t.read a = s.read a
  | .display => ∀ k, t.disp.cell k = s.disp.cell k
  | .keys => t.keys = s.keys
  | .rng => t.rng = s.rng ∧ t.draws = s.draws

/-- Every element outside `except` is the same in both states, and so are the host's plan and the parameters. -/
def SameBut (except : Element → Prop) (s t : State) : Prop :=
  (∀ e, ¬ except e → SameElement e s t) ∧ t.host = s.host ∧ t.params = s.params

/-- Which element an instruction may write: the columns marked w of the access matrix (10_state.md R36), a register
operand standing for its V[X] column and `VF` for its VF column. -/
def mayWrite (i : Instr) (e : Element) : Prop :=
  match i with
  | .cls => e = .display
  | .ret => e = .stack
  | .jp _ => False
  | .call _ => e = .stack
  | .seImm _ _ | .sneImm _ _ => False
  | .seReg _ _ | .sneReg _ _ => False
  | .ldImm x _ => e = .reg x
  | .addImm x _ => e = .reg x ∨ e = .reg regVF
  | .ldReg x _ | .orReg x _ | .andReg x _ | .xorReg x _ => e = .reg x
  | .addReg x _ | .sub x _ | .subn x _ => e = .reg x ∨ e = .reg regVF
  | .shr x | .shl x => e = .reg x ∨ e = .reg regVF
  | .ldI _ => e = .index
  | .jpV0 _ => False
  | .rnd x _ => e = .reg x ∨ e = .rng
  | .drw _ _ _ => e = .display ∨ e = .reg regVF
  | .skp _ | .sknp _ => False
  | .ldVxDt x => e = .reg x
  | .ldVxK x => e = .reg x
  | .ldDtVx _ => e = .delay
  | .ldStVx _ => e = .sound
  | .addI _ | .ldF _ => e = .index
  | .ldB _ | .stRegs _ => e = .memory
  | .ldRegs x => ∃ r : Reg, r ≤ x ∧ e = .reg r

/-- The instruction ends `Ok` in a next state: every element outside `except` is as it was, and `post` holds of it. -/
def EndsOk (i : Instr) (s : State) (except : Element → Prop) (post : State → Prop) : Prop :=
  ∃ t, exec i s = .next t ∧ t.reply = .ok ∧ SameBut except s t ∧ post t

/-- Every word with the given bits under the mask is the instruction `mk` makes of its fields (30_encoding.md R85). -/
def DecodesAs (mask pattern : Word) (mk : Word → Instr) : Prop := ∀ w, w &&& mask = pattern → decode w = .ok (mk w)

/-- Some set bit of the `n`-byte sprite at `I`, drawn at (V[x], V[y]), lies on the pixel (px, py) (43_display.md R184,
R186). -/
def SpriteCovers (s : State) (x y : Reg) (n px py : Nat) : Prop :=
  ∃ r c, r < n ∧ c < 8 ∧ (s.read (s.i.toNat + r)).getLsbD (7 - c) = true ∧
    px = ((s.reg x).toNat + c) % s.params.displayWidth ∧ py = ((s.reg y).toNat + r) % s.params.displayHeight

/-- The set bit in row `r` and column `c` of the sprite at `I`, drawn at (V[x], V[y]), lies on the pixel (px, py)
(43_display.md R184, R186). -/
def BitCovers (s : State) (x y : Reg) (px py : Nat) (rc : Nat × Nat) : Bool :=
  (s.read (s.i.toNat + rc.1)).getLsbD (7 - rc.2) && px == ((s.reg x).toNat + rc.2) % s.params.displayWidth &&
    py == ((s.reg y).toNat + rc.1) % s.params.displayHeight

/-- How many set bits of the `n`-byte sprite lie on the pixel (px, py): at most one when the display is at least `n` high
(43_display.md R187). -/
def coverCount (s : State) (x y : Reg) (n px py : Nat) : Nat :=
  ((List.range n).flatMap (fun r => (List.range 8).map (fun c => (r, c)))).countP (BitCovers s x y px py)

/-- Every element of the engine but memory is at its reset value (10_state.md R37). -/
def EngineReset (t : State) : Prop :=
  (∀ r, t.reg r = 0) ∧ t.i = 0 ∧ t.pc.toNat = t.params.programStart % 65536 ∧ t.sp.val = 0 ∧
  (∀ k (h : k < Config.stackDepth), t.stack[k] = 0) ∧ t.dt = 0 ∧ t.st = 0 ∧ (∀ k, t.disp.cell k = 0) ∧
  (∀ k (h : k < Config.numKeys), t.keys[k] = false) ∧ t.rng = rngSeeded

/-! ## Where an instruction does not end `Ok` (60_exceptions.md R267) -/

/-- The failure an instruction meets in a state, `PC` being already advanced (R267): none means it ends `Ok`. -/
def failureOf (i : Instr) (s : State) : Option Failure :=
  match i with
  | .ret => if s.sp.val = 0 then some .stackUnderflow else none
  | .call _ => if s.sp.val = 16 then some .stackOverflow else none
  | .drw _ _ n =>
    if s.i.toNat + n.val > s.params.memSize then some (.memoryOutOfBounds (s.i.toNat + n.val)) else none
  | .ldB _ => if s.i.toNat + 3 > s.params.memSize then some (.memoryOutOfBounds (s.i.toNat + 3)) else none
  | .stRegs x | .ldRegs x =>
    if s.i.toNat + x.val + 1 > s.params.memSize then some (.memoryOutOfBounds (s.i.toNat + x.val + 1)) else none
  | .skp x | .sknp x =>
    if (s.reg x).toNat ≥ 16 then some (.error (.keyIndexOutOfBounds (s.reg x).toNat)) else none
  | .cls | .jp _ | .seImm _ _ | .sneImm _ _ | .seReg _ _ | .sneReg _ _ | .jpV0 _ => none
  | .ldImm _ _ | .addImm _ _ | .ldReg _ _ | .orReg _ _ | .andReg _ _ | .xorReg _ _ | .addReg _ _ => none
  | .sub _ _ | .shr _ | .subn _ _ | .shl _ | .ldI _ | .addI _ | .ldF _ | .rnd _ _ => none
  | .ldVxDt _ | .ldVxK _ | .ldDtVx _ | .ldStVx _ => none

end Sys2Proof.Machine
end

