-- ==== Sys2Proof/Certificates/Slice0/Obligations.lean ====
section
/-!
DEFINITION. The statements for the provers. A docstring names the rule or section of spec/ that a statement formalises;
"the spec's decision D<n>" marks a clause that rests on a choice of the spec itself (92_eei_decisions.md), with its log
entry. In every statement about `exec` the state is the one at dispatch, whose `PC` already holds `a + 2` (35_cycle.md
R103).
-/

open Sys2Proof Sys2Proof.Machine

/-! ## Encoding (30_encoding.md) -/

/-- Decoding an encoded instruction gives it back, with every operand at every value (sections 1 and 2). -/
def Obligations.EncodedInstructionDecodesBack : Prop := ∀ i : Instr, decode (encode i) = .ok i

/-- A word that matches a row of the opcode map decodes to an instruction of that row, and matches no other row
(section 2, R85). -/
def Obligations.DecodeFollowsOpcodeMap : Prop :=
  ∀ (w : Word) (r : OpcodeRow), r ∈ opcodeMap → r.matchesWord w = true →
    (∃ i, decode w = .ok i ∧ i.mnemonic = r.mnemonic) ∧
    ∀ r' ∈ opcodeMap, r'.matchesWord w = true → r' = r

/-- A word that matches no row is rejected with its low byte, and these words are exactly those of the four families
R92 lists (section 3). -/
def Obligations.UnmatchedWordsAreRejected : Prop :=
  ∀ w : Word,
    (legalWord w = false → decode w = .error (.opcodeNotFound (fieldNN w))) ∧
    (legalWord w = false ↔
      (fieldF w = 0x0 ∧ fieldNN w ∉ [0xE0#8, 0xEE#8]) ∨
      (fieldF w = 0x8 ∧ fieldN w ∈ [0x8#4, 0x9#4, 0xA#4, 0xB#4, 0xC#4, 0xD#4, 0xF#4]) ∨
      (fieldF w = 0xE ∧ fieldNN w ∉ [0x9E#8, 0xA1#8]) ∨
      (fieldF w = 0xF ∧ fieldNN w ∉ [0x07#8, 0x0A#8, 0x15#8, 0x18#8, 0x1E#8, 0x29#8, 0x33#8, 0x55#8, 0x65#8]))

/-- A legal word differs from the encoding of its instruction at most in the don't-care fields (R84, R93: the spec's
decision D11, log 14). -/
def Obligations.OnlyIgnoredFieldsAreDropped : Prop :=
  ∀ (w : Word) (i : Instr), decode w = .ok i → encode i = w &&& i.careMask

/-- Words written out from the spec's encodings decode to the instructions they stand for (95_test_vectors.md). `0FEE` and
`5127` are non-canonical spellings, legal only by the spec's decision D11 (log 14). -/
def Obligations.SpecWordsDecodeAsWritten : Prop :=
  decode 0x0FEE = .ok .ret ∧ decode 0x6132 = .ok (.ldImm 1 0x32) ∧ decode 0x8015 = .ok (.sub 0 1) ∧
  decode 0x5127 = .ok (.seReg 1 2) ∧ decode 0xD015 = .ok (.drw 0 1 5) ∧ decode 0xE29E = .ok (.skp 2) ∧
  decode 0xF433 = .ok (.ldB 4) ∧ decode 0x8AB9 = .error (.opcodeNotFound 0xB9)

/-! ## The cycle and the step (35_cycle.md, 50_host_interface.md) -/

/-- A step runs the decoded instruction: when the two bytes at `PC` are inside memory and decode, the word is not outside
`STRICT_DECODE` (false by default: D11, log 14), and the host's plan has a cycle next, the step is that instruction's meaning
run on the state whose `PC` has been advanced by 2 and whose plan has moved on (35_cycle.md, R100 to R103; the plan is the
model's own, log 10). A plan of nothing but cycles stays as it is. -/
def Obligations.StepRunsDecodedInstruction : Prop :=
  ∀ (s : State) (i : Instr), s.pc.toNat + 2 ≤ s.params.memSize →
    decode (wordOfBytes (s.read s.pc.toNat) (s.read (s.pc.toNat + 1))) = .ok i →
    s.params.strictDecode = false ∨ encode i = wordOfBytes (s.read s.pc.toNat) (s.read (s.pc.toNat + 1)) →
    (∀ h, s.host.next = (.executeCycle, h) → step s = exec i ((s.setHost h).setPc (s.pc + 2))) ∧
    (s.host.listed = [] → s.host.after = .loop .executeCycle [] → step s = exec i (s.setPc (s.pc + 2)))

/-- A step applies the next transaction of the host's plan, and the plan moves on (50_host_interface.md, R236, R237; the plan
is the model's own, log 10): the first listed one; with none listed, the first of the loop, the others then being listed; or
a free one, of which nothing is known, and the next time another. -/
def Obligations.StepAppliesNextTransaction : Prop :=
  (∀ (s : State) (t : Transaction) (rest : List Transaction), s.host.listed = t :: rest →
    step s = transact t (s.setHost { s.host with listed := rest })) ∧
  (∀ (s : State) (t : Transaction) (others : List Transaction), s.host.listed = [] → s.host.after = .loop t others →
    step s = transact t (s.setHost { s.host with listed := others })) ∧
  ∀ s : State, s.host.listed = [] → s.host.after = .free →
    step s = transact (Config.hostChoice s.host.turns) (s.setHost { s.host with turns := s.host.turns + 1 })

/-- Steps are what the host's transactions bring about, and every finite or infinite sequence of them is admitted
(50_host_interface.md, R237; the plan is the model's own, log 10): `n` steps apply the first `n` transactions of the plan's
sequence; and whatever sequence a host applies, its first `n` transactions are `n` steps of a state that differs in the
plan alone. -/
def Obligations.StepsAdmitEveryHostSequence : Prop :=
  (∀ (n : Nat) (s t : State), Host.Core.run Sys2Proof.core n s = .next t →
    hostRun s.host.seq n s = .next (t.setHost s.host)) ∧
  ∀ (h : Nat → Transaction) (n : Nat) (s t : State), hostRun h n s = .next t →
    Host.Core.run Sys2Proof.core n
      (s.setHost { s.host with listed := (List.range n).map h ++ s.host.listed }) = .next t

/-- A fetch that leaves memory faults with the first address past the two bytes and changes nothing, not even `PC`
(35_cycle.md, R101: the spec's decision D6, log 9; the address it carries: D12, log 26). -/
def Obligations.FetchOutsideMemoryFaults : Prop :=
  ∀ s : State, s.params.memSize < s.pc.toNat + 2 → executeCycle s = .fault (.memoryOutOfBounds (s.pc.toNat + 2) s)

/-- An illegal word hands `OpcodeNotFound` with its low byte to the host; `PC` is past the word and nothing else has
changed (35_cycle.md, R104, derived there; going on after it: log 8). -/
def Obligations.IllegalWordRaisesOpcodeNotFound : Prop :=
  ∀ s : State, s.pc.toNat + 2 ≤ s.params.memSize → legalWord (fetchWord s) = false →
    ∃ t, executeCycle s = .next t ∧ t.reply = .error (.opcodeNotFound (fieldNN (fetchWord s))) ∧
      t.pc = s.pc + 2 ∧ SameBut (fun _ => False) s t

/-- The two bytes an instruction fetches are the latest stored there, high byte first: a word placed where the next cycle
fetches is the one the next step runs, if two bytes fit at `PC` or at the program origin (20_memory.md, R51, R62; log 27; a
non-canonical spelling only with `STRICT_DECODE` false, log 14). -/
def Obligations.PlacedWordIsTheNextInstruction : Prop :=
  ∀ (s : State) (nbits w : Nat) (i : Instr), decodeTableWord nbits w = some i → s.params.ok →
    s.pc.toNat + 2 ≤ s.params.memSize ∨ s.params.programStart + 2 ≤ s.params.memSize →
    s.params.strictDecode = false ∨ encode i = tableWord nbits w →
    ∃ t : State, t.host = s.host ∧ s.withFetchWord nbits w = t.setHost (s.withFetchWord nbits w).host ∧
      step (s.withFetchWord nbits w) = exec i (t.setPc (t.pc + 2))

/-! ## Display (43_display.md) -/

/-- `00E0` (R188, R183; X ignored: the spec's decision D11, log 14). -/
def Obligations.ClearTurnsEveryPixelOff : Prop :=
  DecodesAs 0xF0FF 0x00E0 (fun _ => .cls) ∧
  ∀ s : State, EndsOk .cls s (fun e => e = .display) (fun t => t.pc = s.pc ∧ ∀ k, t.disp.cell k = 0)

/-- `DXYN` (R189, R184 to R187; decisions D6, D20, D26, logs 9, 19; `I` unchanged: D10, log 13; the address the fault
carries: D12, log 26). Inside memory every pixel is toggled once for each set sprite bit that lies on it, so one under a
single bit is toggled and one under none is left alone, no other cell changes, and `VF` is 1 exactly when a bit met a lit
pixel: one lit before, or an unlit one that another bit had lit (R187: possible only when the display is lower than the
sprite). Outside memory it faults. -/
def Obligations.DrawTogglesCoveredPixels : Prop :=
  DecodesAs 0xF000 0xD000 (fun w => .drw (fieldX w) (fieldY w) (fieldHeight w)) ∧
  (∀ (s : State) (x y : Reg) (n : Fin 16), s.params.ok → s.i.toNat + n.val ≤ s.params.memSize →
    EndsOk (.drw x y n) s (fun e => e = .display ∨ e = .reg regVF) (fun t =>
      t.pc = s.pc ∧
      (∀ px py, px < s.params.displayWidth → py < s.params.displayHeight →
        t.disp.cell (py * s.params.displayWidth + px) =
          if coverCount s x y n.val px py % 2 = 1 then s.disp.cell (py * s.params.displayWidth + px) ^^^ 1
          else s.disp.cell (py * s.params.displayWidth + px)) ∧
      (∀ k, s.params.displayCells ≤ k → t.disp.cell k = s.disp.cell k) ∧
      (t.reg regVF = 1 ∨ t.reg regVF = 0) ∧
      (t.reg regVF = 1 ↔ ∃ px py,
        (1 ≤ coverCount s x y n.val px py ∧ s.disp.cell (py * s.params.displayWidth + px) = 1) ∨
        (2 ≤ coverCount s x y n.val px py ∧ s.disp.cell (py * s.params.displayWidth + px) = 0)))) ∧
  (∀ (s : State) (x y : Reg) (n px py : Nat), s.params.ok →
    (1 ≤ coverCount s x y n px py ↔ SpriteCovers s x y n px py) ∧
    (n ≤ s.params.displayHeight → coverCount s x y n px py ≤ 1)) ∧
  ∀ (s : State) (x y : Reg) (n : Fin 16), s.params.memSize < s.i.toNat + n.val →
    exec (.drw x y n) s = .fault (.memoryOutOfBounds (s.i.toNat + n.val) s)

/-- Drawing the same sprite twice at the same coordinates (the registers put back between the draws) restores every pixel,
and the second draw collides exactly when a pixel under one set bit was unlit before the first, or a pixel under several
held 0 or 1 (R190, derived there from R187, which alone gives restoring and collision when the display is lower than the
sprite, as only there several bits can lie on one pixel; the 1 in `VF`: D26, log 19; both draws read the same sprite since
`I` is unchanged: D10, log 13). -/
def Obligations.DrawingTwiceRestoresDisplay : Prop :=
  ∀ (s t u : State) (x y : Reg) (n : Fin 16), s.params.ok → exec (.drw x y n) s = .next t →
    exec (.drw x y n) (t.setRegs s.v) = .next u →
    (∀ k, u.disp.cell k = s.disp.cell k) ∧
    (u.reg regVF = 1 ↔ ∃ px py,
      (1 ≤ coverCount s x y n.val px py ∧ s.disp.cell (py * s.params.displayWidth + px) = 0) ∨
      (2 ≤ coverCount s x y n.val px py ∧ s.disp.cell (py * s.params.displayWidth + px) = 1))

/-- The bounds-checked accessors (R182), for any display size: inside the grid they read and write the pixel's cell, outside
they give `PixelOutOfBounds` with the coordinates (D12, log 26); and no transaction ends with that error. -/
def Obligations.PixelAccessIsCheckedAndNeverFails : Prop :=
  (∀ (p : Params) (d : Display) (x y : Nat) (b : Byte),
    (x < p.displayWidth ∧ y < p.displayHeight →
      pixelGet p d x y = .ok (d.cell (y * p.displayWidth + x)) ∧
      ∃ d', pixelSet p d x y b = .ok d' ∧
        ∀ k, d'.cell k = if k = y * p.displayWidth + x then b else d.cell k) ∧
    (¬ (x < p.displayWidth ∧ y < p.displayHeight) →
      pixelGet p d x y = .error (.pixelOutOfBounds x y) ∧ pixelSet p d x y b = .error (.pixelOutOfBounds x y))) ∧
  ∀ (s t : State) (a : Transaction) (x y : Nat), s.params.ok → transact a s = .next t →
    t.reply ≠ .error (.pixelOutOfBounds x y)

/-! ## Control transfer (40_control_flow.md) -/

/-- `00EE` (R116; X ignored: D11, log 14; the fault: D7, log 24). -/
def Obligations.ReturnPopsAddress : Prop :=
  DecodesAs 0xF0FF 0x00EE (fun _ => .ret) ∧
  (∀ (s : State) (k : Nat) (hk : k < Config.stackDepth), s.sp.val = k + 1 →
    EndsOk .ret s (fun e => e = .stack) (fun t => t.sp.val = k ∧ t.stack = s.stack ∧ t.pc = s.stack[k])) ∧
  ∀ s : State, s.sp.val = 0 → exec .ret s = .fault (.stackUnderflow s)

/-- `1NNN` (R117). -/
def Obligations.JumpLoadsAddress : Prop :=
  DecodesAs 0xF000 0x1000 (fun w => .jp (fieldNNN w)) ∧
  ∀ (s : State) (nnn : Addr12), EndsOk (.jp nnn) s (fun _ => False) (fun t => t.pc.toNat = nnn.toNat)

/-- `2NNN` (R118; the fault and the 16 levels: D7, log 24). -/
def Obligations.CallPushesReturnAddress : Prop :=
  DecodesAs 0xF000 0x2000 (fun w => .call (fieldNNN w)) ∧
  (∀ (s : State) (nnn : Addr12), s.sp.val < 16 →
    EndsOk (.call nnn) s (fun e => e = .stack) (fun t =>
      t.sp.val = s.sp.val + 1 ∧ t.pc.toNat = nnn.toNat ∧
      ∀ k (hk : k < Config.stackDepth), t.stack[k] = if k = s.sp.val then s.pc else s.stack[k])) ∧
  ∀ (s : State) (nnn : Addr12), s.sp.val = 16 → exec (.call nnn) s = .fault (.stackOverflow s)

/-- A return right after a call resumes after the call with the stack pointer as it was, from any subroutine address
(R116, R118, R124). -/
def Obligations.ReturnUndoesCall : Prop :=
  ∀ (s t : State) (nnn : Addr12) (p : Word), exec (.call nnn) s = .next t →
    ∃ u, exec .ret (t.setPc p) = .next u ∧ u.pc = s.pc ∧ u.sp = s.sp

/-- `3XNN` and `4XNN` (R120, R121). -/
def Obligations.SkipOnImmediateComparison : Prop :=
  DecodesAs 0xF000 0x3000 (fun w => .seImm (fieldX w) (fieldNN w)) ∧
  DecodesAs 0xF000 0x4000 (fun w => .sneImm (fieldX w) (fieldNN w)) ∧
  ∀ (s : State) (x : Reg) (nn : Byte),
    EndsOk (.seImm x nn) s (fun _ => False) (fun t => t.pc = if s.reg x = nn then s.pc + 2 else s.pc) ∧
    EndsOk (.sneImm x nn) s (fun _ => False) (fun t => t.pc = if s.reg x = nn then s.pc else s.pc + 2)

/-- `5XY_` and `9XY_` (R122, R123; N ignored: D11, log 14). -/
def Obligations.SkipOnRegisterComparison : Prop :=
  DecodesAs 0xF000 0x5000 (fun w => .seReg (fieldX w) (fieldY w)) ∧
  DecodesAs 0xF000 0x9000 (fun w => .sneReg (fieldX w) (fieldY w)) ∧
  ∀ (s : State) (x y : Reg),
    EndsOk (.seReg x y) s (fun _ => False) (fun t => t.pc = if s.reg x = s.reg y then s.pc + 2 else s.pc) ∧
    EndsOk (.sneReg x y) s (fun _ => False) (fun t => t.pc = if s.reg x = s.reg y then s.pc else s.pc + 2)

/-- `BNNN` (R119; the sum is not cut to 12 bits: log 17). -/
def Obligations.JumpWithOffsetAddsV0 : Prop :=
  DecodesAs 0xF000 0xB000 (fun w => .jpV0 (fieldNNN w)) ∧
  ∀ (s : State) (nnn : Addr12),
    EndsOk (.jpV0 nnn) s (fun _ => False) (fun t => t.pc.toNat = nnn.toNat + (s.reg 0).toNat)

/-! ## Loads and arithmetic (41_load_and_alu.md) -/

/-- `6XNN` (R140). -/
def Obligations.LoadImmediateWritesRegister : Prop :=
  DecodesAs 0xF000 0x6000 (fun w => .ldImm (fieldX w) (fieldNN w)) ∧
  ∀ (s : State) (x : Reg) (nn : Byte),
    EndsOk (.ldImm x nn) s (fun e => e = .reg x) (fun t => t.pc = s.pc ∧ t.reg x = nn)

/-- `7XNN` (R141; with X = 15 the flag is what remains: D8, log 11). -/
def Obligations.AddImmediateWritesSumAndOverflow : Prop :=
  DecodesAs 0xF000 0x7000 (fun w => .addImm (fieldX w) (fieldNN w)) ∧
  ∀ (s : State) (x : Reg) (nn : Byte),
    EndsOk (.addImm x nn) s (fun e => e = .reg x ∨ e = .reg regVF) (fun t =>
      t.pc = s.pc ∧ (x ≠ regVF → (t.reg x).toNat = ((s.reg x).toNat + nn.toNat) % 256) ∧
      (t.reg regVF).toNat = if (s.reg x).toNat + nn.toNat > 255 then 1 else 0)

/-- `8XY0` (R142). -/
def Obligations.CopyRegister : Prop :=
  DecodesAs 0xF00F 0x8000 (fun w => .ldReg (fieldX w) (fieldY w)) ∧
  ∀ (s : State) (x y : Reg),
    EndsOk (.ldReg x y) s (fun e => e = .reg x) (fun t => t.pc = s.pc ∧ t.reg x = s.reg y)

/-- `8XY1`, `8XY2`, `8XY3` (R143 to R145; `VF` not written: D27, log 20): bit by bit. -/
def Obligations.BitwiseOperationsWriteRegister : Prop :=
  DecodesAs 0xF00F 0x8001 (fun w => .orReg (fieldX w) (fieldY w)) ∧
  DecodesAs 0xF00F 0x8002 (fun w => .andReg (fieldX w) (fieldY w)) ∧
  DecodesAs 0xF00F 0x8003 (fun w => .xorReg (fieldX w) (fieldY w)) ∧
  ∀ (s : State) (x y : Reg),
    EndsOk (.orReg x y) s (fun e => e = .reg x) (fun t => t.pc = s.pc ∧
      ∀ k, (t.reg x).getLsbD k = ((s.reg x).getLsbD k || (s.reg y).getLsbD k)) ∧
    EndsOk (.andReg x y) s (fun e => e = .reg x) (fun t => t.pc = s.pc ∧
      ∀ k, (t.reg x).getLsbD k = ((s.reg x).getLsbD k && (s.reg y).getLsbD k)) ∧
    EndsOk (.xorReg x y) s (fun e => e = .reg x) (fun t => t.pc = s.pc ∧
      ∀ k, (t.reg x).getLsbD k = ((s.reg x).getLsbD k ^^ (s.reg y).getLsbD k))

/-- `8XY4` (R146; with X = 15 the flag is what remains: D8, log 11). -/
def Obligations.AddRegistersWritesSumAndCarry : Prop :=
  DecodesAs 0xF00F 0x8004 (fun w => .addReg (fieldX w) (fieldY w)) ∧
  ∀ (s : State) (x y : Reg),
    EndsOk (.addReg x y) s (fun e => e = .reg x ∨ e = .reg regVF) (fun t =>
      t.pc = s.pc ∧ (x ≠ regVF → (t.reg x).toNat = ((s.reg x).toNat + (s.reg y).toNat) % 256) ∧
      (t.reg regVF).toNat = if (s.reg x).toNat + (s.reg y).toNat > 255 then 1 else 0)

/-- `8XY5` and `8XY7` (R147, R149; with X = 15 the flag is what remains: D8, log 11). -/
def Obligations.SubtractionsWriteDifferenceAndNoBorrow : Prop :=
  DecodesAs 0xF00F 0x8005 (fun w => .sub (fieldX w) (fieldY w)) ∧
  DecodesAs 0xF00F 0x8007 (fun w => .subn (fieldX w) (fieldY w)) ∧
  ∀ (s : State) (x y : Reg),
    EndsOk (.sub x y) s (fun e => e = .reg x ∨ e = .reg regVF) (fun t =>
      t.pc = s.pc ∧ (x ≠ regVF → (t.reg x).toNat = ((s.reg x).toNat + 256 - (s.reg y).toNat) % 256) ∧
      (t.reg regVF).toNat = if (s.reg x).toNat ≥ (s.reg y).toNat then 1 else 0) ∧
    EndsOk (.subn x y) s (fun e => e = .reg x ∨ e = .reg regVF) (fun t =>
      t.pc = s.pc ∧ (x ≠ regVF → (t.reg x).toNat = ((s.reg y).toNat + 256 - (s.reg x).toNat) % 256) ∧
      (t.reg regVF).toNat = if (s.reg y).toNat ≥ (s.reg x).toNat then 1 else 0)

/-- `8XY6` (R148; Y ignored: D9, log 12; X = 15: D8, log 11). -/
def Obligations.ShiftRightWritesHalfAndLowBit : Prop :=
  DecodesAs 0xF00F 0x8006 (fun w => .shr (fieldX w)) ∧
  ∀ (s : State) (x : Reg),
    EndsOk (.shr x) s (fun e => e = .reg x ∨ e = .reg regVF) (fun t =>
      t.pc = s.pc ∧ (x ≠ regVF → (t.reg x).toNat = (s.reg x).toNat / 2) ∧
      (t.reg regVF).toNat = (s.reg x).toNat % 2)

/-- `8XYE` (R151; Y ignored: D9, log 12; X = 15: D8, log 11): the flag is 0x80 or 0x00, never 1. -/
def Obligations.ShiftLeftWritesDoubleAndRawHighBit : Prop :=
  DecodesAs 0xF00F 0x800E (fun w => .shl (fieldX w)) ∧
  ∀ (s : State) (x : Reg),
    EndsOk (.shl x) s (fun e => e = .reg x ∨ e = .reg regVF) (fun t =>
      t.pc = s.pc ∧ (x ≠ regVF → (t.reg x).toNat = (s.reg x).toNat * 2 % 256) ∧
      (t.reg regVF).toNat = if (s.reg x).toNat ≥ 128 then 128 else 0)

/-! ## Index register and memory (42_index_and_memory.md) -/

/-- `ANNN` (R163). -/
def Obligations.LoadIndexWritesAddress : Prop :=
  DecodesAs 0xF000 0xA000 (fun w => .ldI (fieldNNN w)) ∧
  ∀ (s : State) (nnn : Addr12),
    EndsOk (.ldI nnn) s (fun e => e = .index) (fun t => t.pc = s.pc ∧ t.i.toNat = nnn.toNat)

/-- `FX1E` (R164). -/
def Obligations.AddToIndexWrapsAtSixteenBits : Prop :=
  DecodesAs 0xF0FF 0xF01E (fun w => .addI (fieldX w)) ∧
  ∀ (s : State) (x : Reg),
    EndsOk (.addI x) s (fun e => e = .index) (fun t =>
      t.pc = s.pc ∧ t.i.toNat = (s.i.toNat + (s.reg x).toNat) % 65536)

/-- `FX29` (R165; the whole register value: D25, log 17). -/
def Obligations.PointToGlyphMultipliesByFive : Prop :=
  DecodesAs 0xF0FF 0xF029 (fun w => .ldF (fieldX w)) ∧
  ∀ (s : State) (x : Reg),
    EndsOk (.ldF x) s (fun e => e = .index) (fun t => t.pc = s.pc ∧ t.i.toNat = (s.reg x).toNat * 5)

/-- `FX33` (R166; the fault: D6, log 9, its address: D12, log 26; `I` unchanged: D10, log 13). -/
def Obligations.StoreDecimalDigits : Prop :=
  DecodesAs 0xF0FF 0xF033 (fun w => .ldB (fieldX w)) ∧
  (∀ (s : State) (x : Reg), s.i.toNat + 3 ≤ s.params.memSize →
    EndsOk (.ldB x) s (fun e => e = .memory) (fun t =>
      t.pc = s.pc ∧
      (t.read (dataBase s)).toNat = (s.reg x).toNat / 100 ∧
      (t.read (dataBase s + 1)).toNat = (s.reg x).toNat / 10 % 10 ∧
      (t.read (dataBase s + 2)).toNat = (s.reg x).toNat % 10 ∧
      ∀ a, a < dataBase s ∨ dataBase s + 3 ≤ a → t.read a = s.read a)) ∧
  ∀ (s : State) (x : Reg), s.params.memSize < s.i.toNat + 3 →
    exec (.ldB x) s = .fault (.memoryOutOfBounds (s.i.toNat + 3) s)

/-- `FX55` (R167; the fault: D6, log 9, its address: D12, log 26; `I` unchanged: D10, log 13). -/
def Obligations.StoreRegistersWritesBlock : Prop :=
  DecodesAs 0xF0FF 0xF055 (fun w => .stRegs (fieldX w)) ∧
  (∀ (s : State) (x : Reg), s.i.toNat + x.val + 1 ≤ s.params.memSize →
    EndsOk (.stRegs x) s (fun e => e = .memory) (fun t =>
      t.pc = s.pc ∧
      (∀ r : Reg, r ≤ x → t.read (dataBase s + r.val) = s.reg r) ∧
      ∀ a, a < dataBase s ∨ dataBase s + x.val + 1 ≤ a → t.read a = s.read a)) ∧
  ∀ (s : State) (x : Reg), s.params.memSize < s.i.toNat + x.val + 1 →
    exec (.stRegs x) s = .fault (.memoryOutOfBounds (s.i.toNat + x.val + 1) s)

/-- `FX65` (R168; the fault: D6, log 9, its address: D12, log 26; `I` unchanged: D10, log 13). -/
def Obligations.LoadRegistersReadsBlock : Prop :=
  DecodesAs 0xF0FF 0xF065 (fun w => .ldRegs (fieldX w)) ∧
  (∀ (s : State) (x : Reg), s.i.toNat + x.val + 1 ≤ s.params.memSize →
    EndsOk (.ldRegs x) s (fun e => ∃ r : Reg, r ≤ x ∧ e = .reg r) (fun t =>
      t.pc = s.pc ∧ ∀ r : Reg, r ≤ x → t.reg r = s.read (dataBase s + r.val))) ∧
  ∀ (s : State) (x : Reg), s.params.memSize < s.i.toNat + x.val + 1 →
    exec (.ldRegs x) s = .fault (.memoryOutOfBounds (s.i.toNat + x.val + 1) s)

/-- What `FX55` stored, `FX65` with the same X loads back, whatever the registers hold meanwhile (R161, R167, R168; both
address the same block since `I` is unchanged: D10, log 13). -/
def Obligations.LoadRestoresStoredRegisters : Prop :=
  ∀ (s t : State) (x : Reg) (v : Regs), exec (.stRegs x) s = .next t →
    ∃ u, exec (.ldRegs x) (t.setRegs v) = .next u ∧ ∀ r : Reg,
      (r ≤ x → u.reg r = s.reg r) ∧ (x < r → u.reg r = v[r.val])

/-- A byte stored by `FX55` is seen by the very next fetch: two neighbouring stored registers are fetched as one opcode,
the lower-numbered one as its high byte (20_memory.md, R62). -/
def Obligations.StoredBytesAreFetchedAsCode : Prop :=
  ∀ (s t : State) (x r : Reg) (q : Reg) (p : Word), exec (.stRegs x) s = .next t → q.val = r.val + 1 → q ≤ x →
    p.toNat = s.i.toNat + r.val →
    (fetchWord (t.setPc p)).toNat = (s.reg r).toNat * 256 + (s.reg q).toNat

/-! ## Keys, timers, random numbers (44_keys_timers_random.md) -/

/-- `EX9E` and `EXA1` (R210, R211; no masking of the index: D15, log 15; going on after the error: log 8; the index
it carries: D12, log 26). -/
def Obligations.KeySkipsTestOneKey : Prop :=
  DecodesAs 0xF0FF 0xE09E (fun w => .skp (fieldX w)) ∧
  DecodesAs 0xF0FF 0xE0A1 (fun w => .sknp (fieldX w)) ∧
  (∀ (s : State) (x : Reg) (hk : (s.reg x).toNat < Config.numKeys),
    EndsOk (.skp x) s (fun _ => False) (fun t =>
      t.pc = if s.keys[(s.reg x).toNat] = true then s.pc + 2 else s.pc) ∧
    EndsOk (.sknp x) s (fun _ => False) (fun t =>
      t.pc = if s.keys[(s.reg x).toNat] = true then s.pc else s.pc + 2)) ∧
  ∀ (s : State) (x : Reg), 16 ≤ (s.reg x).toNat →
    exec (.skp x) s = .next (s.setReply (.error (.keyIndexOutOfBounds (s.reg x).toNat))) ∧
    exec (.sknp x) s = .next (s.setReply (.error (.keyIndexOutOfBounds (s.reg x).toNat)))

/-- `FX0A` (R212; the lowest key wins: D16, log 16): with no key down `PC` goes back to the instruction and nothing else
changes; else the lowest key that is down goes to `V[X]` and `PC` stays past the instruction. -/
def Obligations.KeyWaitTakesLowestKeyDown : Prop :=
  DecodesAs 0xF0FF 0xF00A (fun w => .ldVxK (fieldX w)) ∧
  (∀ (s : State) (x : Reg), (∀ j (hj : j < Config.numKeys), s.keys[j] = false) →
    EndsOk (.ldVxK x) s (fun _ => False) (fun t => t.pc = s.pc - 2)) ∧
  ∀ (s : State) (x : Reg) (k : Nat) (hk : k < Config.numKeys), s.keys[k] = true →
    (∀ j (hj : j < k), s.keys[j] = false) →
    EndsOk (.ldVxK x) s (fun e => e = .reg x) (fun t => t.pc = s.pc ∧ (t.reg x).toNat = k)

/-- `FX07`, `FX15`, `FX18` (R213 to R215). -/
def Obligations.TimerMovesCopyOneByte : Prop :=
  DecodesAs 0xF0FF 0xF007 (fun w => .ldVxDt (fieldX w)) ∧
  DecodesAs 0xF0FF 0xF015 (fun w => .ldDtVx (fieldX w)) ∧
  DecodesAs 0xF0FF 0xF018 (fun w => .ldStVx (fieldX w)) ∧
  ∀ (s : State) (x : Reg),
    EndsOk (.ldVxDt x) s (fun e => e = .reg x) (fun t => t.pc = s.pc ∧ t.reg x = s.dt) ∧
    EndsOk (.ldDtVx x) s (fun e => e = .delay) (fun t => t.pc = s.pc ∧ t.dt = s.reg x) ∧
    EndsOk (.ldStVx x) s (fun e => e = .sound) (fun t => t.pc = s.pc ∧ t.st = s.reg x)

/-- `CXNN` (R222): the drawn byte, a free value (log 6), under the mask; bits outside the mask are 0 whatever is drawn; the
generator makes one call (D14, log 7) and the next draw is another free value. -/
def Obligations.RandomByteIsMasked : Prop :=
  DecodesAs 0xF000 0xC000 (fun w => .rnd (fieldX w) (fieldNN w)) ∧
  ∀ (s : State) (x : Reg) (nn : Byte),
    EndsOk (.rnd x nn) s (fun e => e = .reg x ∨ e = .rng) (fun t =>
      t.pc = s.pc ∧ t.reg x = drawnByte s &&& nn ∧ (t.reg x).toNat ≤ nn.toNat ∧
      (∀ k, nn.getLsbD k = false → (t.reg x).getLsbD k = false) ∧
      t.rng = (rngNext s.rng).1 ∧ t.draws = s.draws + 1)

/-- Seeding (R224): the first three slots are the seed with the odd constant added successively, wrapping; the seed, the
constant and the rest are open (D14, log 7). -/
def Obligations.GeneratorIsSeededFromFixedSeed : Prop :=
  Config.rngC.toNat % 2 = 1 ∧
  rngSeeded.history[0].toNat = Config.rngSeed.toNat ∧
  rngSeeded.history[1].toNat = (Config.rngSeed.toNat + Config.rngC.toNat) % 2 ^ 32 ∧
  rngSeeded.history[2].toNat = (Config.rngSeed.toNat + 2 * Config.rngC.toNat) % 2 ^ 32 ∧
  ∀ k (hk : k < Config.rngN), 3 ≤ k → rngSeeded.history[k] = Config.rngFill k

/-- One generation step of the random generator (R225; that "the addition wrapped" is the test `x < carry` is derived
there), in plain arithmetic and for every multiplier and maximum, since the spec leaves the engine's own open (D14, log 7):
with `t` the 64-bit product and sum, its halves added give the candidate and the new carry, both one more when the addition
passes 2^32; only the slot at the new index changes. -/
def Obligations.GeneratorStepMultipliesWithCarry : Prop :=
  (∀ g : Rng, rngNext g = generatorStep Config.rngA Config.rngMax g) ∧
  ∀ (a : Word64) (max : Word32) (g : Rng) (k : Nat) (hk : k < Config.rngN), k = (g.idx.val + 1) % Config.rngN →
    ∀ (t : Nat) (g' : Rng) (out : Word32), t = (a.toNat * g.history[k].toNat + g.carry.toNat) % 2 ^ 64 →
      generatorStep a max g = (g', out) →
      g'.idx.val = k ∧ g'.history[k] = out ∧
      (∀ j (hj : j < Config.rngN), j ≠ k → g'.history[j] = g.history[j]) ∧
      (t % 2 ^ 32 + t / 2 ^ 32 < 2 ^ 32 →
        g'.carry.toNat = t / 2 ^ 32 ∧
        out.toNat = (max.toNat + 2 ^ 32 - (t % 2 ^ 32 + t / 2 ^ 32)) % 2 ^ 32) ∧
      (2 ^ 32 ≤ t % 2 ^ 32 + t / 2 ^ 32 →
        g'.carry.toNat = (t / 2 ^ 32 + 1) % 2 ^ 32 ∧
        out.toNat = (max.toNat + 2 ^ 32 - (t % 2 ^ 32 + t / 2 ^ 32 - 2 ^ 32 + 1)) % 2 ^ 32)

/-! ## Host transactions (50_host_interface.md) and reset -/

/-- `construct` (R240) and the reset state, for any parameters, have every element at its reset value (10_state.md, R37: D2,
D5, logs 2 and 5; the cut of `PROGRAM_START` to 16 bits is the model's choice, log 2), and memory at the reset contents: the
font of the parameters (20_memory.md R58) and 0 elsewhere. -/
def Obligations.ConstructGivesResetState : Prop :=
  (∀ p : Params, EngineReset (State.resetWith p) ∧ (State.resetWith p).params = p ∧
    ∀ a, (State.resetWith p).read a = p.memReset a) ∧
  (∀ (p : Params) (a : Nat), p.memReset a =
    if a < p.numGlyphs * 5 then p.font.getD a 0 else 0) ∧
  ∀ s : State, ∃ t, transact .construct s = .next t ∧ t.reply = .ok ∧ EngineReset t ∧
    (∀ a, t.read a = s.params.memReset a) ∧ t.host = s.host ∧ t.params = s.params

/-- `load_rom` (R241; the failing case: D22, log 21; the length it carries: D12, log 26; the reset values: D5, log 5, and
for `PC` the low 16 bits of `PROGRAM_START`: D2, log 2, where the cut is the model's choice): an image that fits resets
everything and stands at `PROGRAM_START`, every other byte at its reset contents; a larger one changes nothing. -/
def Obligations.LoadRomResetsAndPlacesImage : Prop :=
  (∀ (s : State) (image : List Byte), image.length ≤ s.params.memSize - s.params.programStart →
    ∃ t, transact (.loadRom image) s = .next t ∧ t.reply = .ok ∧ EngineReset t ∧ t.host = s.host ∧
      t.params = s.params ∧
      ∀ a, t.read a =
        if s.params.programStart ≤ a ∧ a < s.params.programStart + image.length
        then image.getD (a - s.params.programStart) 0 else s.params.memReset a) ∧
  ∀ (s : State) (image : List Byte), s.params.memSize - s.params.programStart < image.length →
    transact (.loadRom image) s = .next (s.setReply (.error (.romTooLarge image.length)))

/-- `decrement_timer` (R245; it never fails: D24, log 22): one tick lowers both timers by one, floored at 0, and changes
nothing else; any number of ticks in a row, run as steps, lower them by that number, never below 0, and run no instruction,
even if the host never applies anything else (10_state.md, R27, R28; 50_host_interface.md, R237; log 10). -/
def Obligations.TicksLowerBothTimersToZero : Prop :=
  (∀ s : State, ∃ t, transact .decrementTimer s = .next t ∧ t.reply = .ok ∧
    t.dt.toNat = s.dt.toNat - 1 ∧ t.st.toNat = s.st.toNat - 1 ∧ t.pc = s.pc ∧
    SameBut (fun e => e = .delay ∨ e = .sound) s t) ∧
  ∀ (n : Nat) (s : State), (∀ k, k < n → s.host.seq k = .decrementTimer) →
    ∃ t : State, Host.Core.run Sys2Proof.core n s = .next t ∧ t.params = s.params ∧
      (s.host.listed = List.replicate n .decrementTimer → t.host = { s.host with listed := [] }) ∧
      (s.host.listed = [] → s.host.after = .loop .decrementTimer [] → t.host = s.host) ∧
      t.dt.toNat = s.dt.toNat - n ∧ t.st.toNat = s.st.toNat - n ∧ t.pc = s.pc ∧
      ∀ e, e ≠ .delay → e ≠ .sound → SameElement e s t

/-- `key_down` and `key_up` (R246, R247; going on after the error: log 8; the index it carries: D12, log 26). -/
def Obligations.KeyEventsSetOneLevel : Prop :=
  (∀ (s : State) (k : Nat), k < 16 →
    (∃ t, transact (.keyDown k) s = .next t ∧ t.reply = .ok ∧ t.pc = s.pc ∧ SameBut (fun e => e = .keys) s t ∧
      ∀ j (hj : j < Config.numKeys), t.keys[j] = if j = k then true else s.keys[j]) ∧
    (∃ t, transact (.keyUp k) s = .next t ∧ t.reply = .ok ∧ t.pc = s.pc ∧ SameBut (fun e => e = .keys) s t ∧
      ∀ j (hj : j < Config.numKeys), t.keys[j] = if j = k then false else s.keys[j])) ∧
  (∀ (s : State) (k : Nat), 16 ≤ k →
    transact (.keyDown k) s = .next (s.setReply (.error (.keyIndexOutOfBounds k))) ∧
    transact (.keyUp k) s = .next (s.setReply (.error (.keyIndexOutOfBounds k)))) ∧
  ∀ (s t u : State) (k : Nat) (hk : k < Config.numKeys), s.keys[k] = false → transact (.keyDown k) s = .next t →
    transact (.keyUp k) t = .next u → u.keys = s.keys

/-- `get_display` (R248): the `W*H` bytes in index order; `get_width` and `get_height` (R250): the two parameters,
whatever the state. None of them changes an element of the engine. -/
def Obligations.DisplayReadsReturnCellsAndSize : Prop :=
  ∀ s : State,
    (∃ bytes : List Byte, transact .getDisplay s = .next (s.setReply (.display bytes)) ∧
      bytes.length = s.params.displayWidth * s.params.displayHeight ∧
      ∀ x y, x < s.params.displayWidth → y < s.params.displayHeight →
        bytes.getD (y * s.params.displayWidth + x) 0 = s.disp.cell (y * s.params.displayWidth + x)) ∧
    transact .getWidth s = .next (s.setReply (.size s.params.displayWidth)) ∧
    transact .getHeight s = .next (s.setReply (.size s.params.displayHeight))

/-- `is_sound_active` (R249: the spec's decision D18, log 22): whether `ST` is not 0, and no element changes. -/
def Obligations.SoundIsActiveWhileTimerRuns : Prop :=
  ∀ s : State, ∃ b : Bool, transact .isSoundActive s = .next (s.setReply (.soundActive b)) ∧
    (b = true ↔ s.st.toNat ≠ 0)

/-! ## Whole-machine rules -/

/-- An instruction writes nothing outside its columns of the access matrix (10_state.md, section 4, R36; that `I` is not
written by the memory instructions and `DXYN`: D10, log 13; nor `VF` by OR, AND and XOR: D27, log 20), however it ends in a
next state. -/
def Obligations.OnlyMatrixElementsAreWritten : Prop :=
  ∀ (i : Instr) (s t : State), exec i s = .next t → SameBut (mayWrite i) s t

/-- Which instruction fails when, and how (60_exceptions.md, R267 and R269, derived there; the faults: D6, D7, logs 9 and
24; going on after an error: log 8; the values carried: D12, log 26): where the table names no failure the instruction ends
`Ok`; where it names one, the instruction raises exactly that and has changed nothing. -/
def Obligations.FailuresAreExactlyTheTable : Prop :=
  ∀ (i : Instr) (s : State), s.params.ok →
    (failureOf i s = none → ∃ t, exec i s = .next t ∧ t.reply = .ok) ∧
    (∀ e, failureOf i s = some (.error e) → exec i s = .next (s.setReply (.error e))) ∧
    (∀ n, failureOf i s = some (.memoryOutOfBounds n) → exec i s = .fault (.memoryOutOfBounds n s)) ∧
    (failureOf i s = some .stackOverflow → exec i s = .fault (.stackOverflow s)) ∧
    (failureOf i s = some .stackUnderflow → exec i s = .fault (.stackUnderflow s))

/-- A cycle that faults leaves the state as it was when the fetch failed, and with `PC` past the instruction, nothing
else changed, when the instruction failed (60_exceptions.md, R269: D13, log 25). -/
def Obligations.FaultedCycleLeavesTabledState : Prop :=
  ∀ (s : State) (f : Fault), executeCycle s = .fault f →
    (s.params.memSize < s.pc.toNat + 2 ∧ f.leftState = s) ∨
    (s.pc.toNat + 2 ≤ s.params.memSize ∧ f.leftState = s.setPc (s.pc + 2))

/-- Every step keeps the parameters (00_scope.md, R6) and the invariant: the parameters satisfy their constraints, memory and
display stay in canonical form and every pixel stays 0 or 1 (10_state.md, R30), in a next state and in the state a fault
leaves; and so does every sequence of transactions any host can apply (50_host_interface.md, R237). -/
def Obligations.StepKeepsStateInvariant : Prop :=
  (∀ s : State, s.Inv →
    (∀ t, step s = .next t → t.Inv ∧ t.params = s.params) ∧
    ∀ f, step s = .fault f → f.leftState.Inv ∧ f.leftState.params = s.params) ∧
  ∀ (h : Nat → Transaction) (n : Nat) (s t : State), s.Inv → hostRun h n s = .next t → t.Inv ∧ t.params = s.params

/-- The reset state meets the invariant, with the defaults and with any parameters that satisfy their constraints
(10_state.md, R37; 00_scope.md, R6). -/
def Obligations.ResetStateMeetsInvariant : Prop :=
  State.reset.Inv ∧ ∀ p : Params, p.ok → (State.resetWith p).Inv

/-- With `STRICT_DECODE` false, its default, no step is refused: every transaction and every instruction has its meaning
(30_encoding.md, section 2; 50_host_interface.md, section 1). With it true the only refusal is that of a cycle whose word is
legal and not the canonical spelling, and it is no `OpcodeNotFound` (30_encoding.md R93: D11, log 14). -/
def Obligations.NoStepIsRefused : Prop :=
  (∀ (s : State) (r : Refusal), s.params.strictDecode = false → step s ≠ .refused r) ∧
  (∀ (s : State) (a : Transaction) (r : Refusal), transact a s = .refused r →
    a = .executeCycle ∧ s.params.strictDecode = true ∧ s.pc.toNat + 2 ≤ s.params.memSize ∧
      r = .nonCanonicalWord (fetchWord s) ∧ ∃ i, decode (fetchWord s) = .ok i ∧ encode i ≠ fetchWord s) ∧
  ∀ (s : State) (i : Instr), s.params.strictDecode = true → s.pc.toNat + 2 ≤ s.params.memSize →
    decode (fetchWord s) = .ok i → encode i ≠ fetchWord s →
    executeCycle s = .refused (.nonCanonicalWord (fetchWord s))

/-- What an earlier transaction handed to the host never matters to a later one: nothing of it is recorded in the engine
(60_exceptions.md, R268; the reply is the model's own field, log 8). -/
def Obligations.EarlierReplyNeverMatters : Prop :=
  ∀ (s t : State) (r : Reply), step s = .next t → step (s.setReply r) = .next t

/-- No instruction reads the sound timer (10_state.md, R28): with another value in it the outcome is the same, but for the
sound timer itself where the instruction does not set it. -/
def Obligations.NoInstructionReadsSoundTimer : Prop :=
  ∀ (i : Instr) (s t : State) (b : Byte), exec i s = .next t →
    (mayWrite i .sound → exec i (s.setSt b) = .next t) ∧
    (¬ mayWrite i .sound → exec i (s.setSt b) = .next (t.setSt b))

/-- A cycle never changes the keys (10_state.md section 4, R31, R36), and changes a timer only by `FX15` or `FX18`
(10_state.md section 3, R27, R28; 35_cycle.md, R106): the timers do not run with the cycles. -/
def Obligations.CyclesDoNotTickTimersOrMoveKeys : Prop :=
  ∀ s t : State, executeCycle s = .next t →
    t.keys = s.keys ∧
    (t.dt = s.dt ∨ ∃ x, decode (fetchWord s) = .ok (.ldDtVx x) ∧ t.dt = s.reg x) ∧
    (t.st = s.st ∨ ∃ x, decode (fetchWord s) = .ok (.ldStVx x) ∧ t.st = s.reg x)

/-- When a run has ended (70_reset_and_hazards.md, R302: the spec's decision D23, log 29) a cycle leaves the whole state
as it is. -/
def Obligations.EndedRunStaysWhereItIs : Prop :=
  ∀ s : State, s.RunEnded → executeCycle s = .next (s.setReply .ok)
end

