-- ==== Sys2Proof/Laws/Cells.lean ====
section
/-!
SUPPORT. The laws of bytes held as the cells that differ from a base: what a byte reads as after a write, that a write
keeps the canonical form, and that in canonical form the bytes decide the list.
-/

namespace Sys2Proof.Machine

variable (base : Nat → Byte)

theorem cellsGet_eq_base (m : List Host.Cell) (a : Nat) (h : ∀ c ∈ m, c.1 ≠ a) :
    cellsGet base m a = base a := by
  induction m with
  | nil => rfl
  | cons c rest ih =>
    have hc := h c (by simp)
    simp only [cellsGet, hc, if_false]
    exact ih fun d hd => h d (by simp [hd])

theorem cellsGet_insert (m : List Host.Cell) (a k : Nat) (b : Byte) :
    cellsGet base (cellsInsert m a b) k = if k = a then b else cellsGet base m k := by
  induction m with
  | nil => simp [cellsInsert, cellsGet, eq_comm]
  | cons c rest ih =>
    obtain ⟨c, d⟩ := c
    simp only [cellsInsert]
    split
    · by_cases hk : k = a <;> simp [cellsGet, hk, Ne.symm, eq_comm]
    · split
      · subst_vars; by_cases hk : k = c <;> simp [cellsGet, hk, eq_comm]
      · by_cases hk : k = a
        · subst hk; rename_i h1 h2; simp [cellsGet, Ne.symm h2, ih]
        · simp [cellsGet, ih, hk]

theorem cellsGet_erase (m : List Host.Cell) (a k : Nat) :
    cellsGet base (cellsErase m a) k = if k = a then base a else cellsGet base m k := by
  induction m with
  | nil => by_cases hk : k = a <;> simp [cellsErase, cellsGet, hk]
  | cons c rest ih =>
    obtain ⟨c, d⟩ := c
    have step : cellsErase ((c, d) :: rest) a =
        if c = a then cellsErase rest a else (c, d) :: cellsErase rest a := by
      by_cases h : c = a <;> simp [cellsErase, h]
    rw [step]
    by_cases h : c = a
    · subst h
      rw [if_pos rfl, ih]
      by_cases hk : k = c
      · simp [hk]
      · simp [hk, cellsGet, Ne.symm hk]
    · by_cases hk : k = a
      · subst hk; simp [h, cellsGet, ih]
      · simp [h, cellsGet, ih, hk]

/-- A read after a write: the byte written at its own address, and every other address as before. -/
theorem cellsGet_put (m : List Host.Cell) (a k : Nat) (b : Byte) :
    cellsGet base (cellsPut base m a b) k = if k = a then b else cellsGet base m k := by
  unfold cellsPut
  split
  · next h => rw [cellsGet_erase, h]
  · exact cellsGet_insert base m a k b

theorem mem_cellsInsert {m : List Host.Cell} {a : Nat} {b : Byte} {c : Host.Cell} (h : c ∈ cellsInsert m a b) :
    c = (a, b) ∨ c ∈ m := by
  induction m with
  | nil => simpa [cellsInsert] using h
  | cons d rest ih =>
    obtain ⟨k, e⟩ := d
    simp only [cellsInsert] at h
    split at h
    · simpa using h
    · split at h
      · rcases List.mem_cons.mp h with h | h <;> simp [h]
      · rcases List.mem_cons.mp h with h | h
        · simp [h]
        · rcases ih h with h | h <;> simp [h]

theorem pairwise_cellsInsert (m : List Host.Cell) (a : Nat) (b : Byte) (h : m.Pairwise (fun c d => c.1 < d.1)) :
    (cellsInsert m a b).Pairwise (fun c d => c.1 < d.1) := by
  induction m with
  | nil => simp [cellsInsert]
  | cons d rest ih =>
    obtain ⟨k, e⟩ := d
    rw [List.pairwise_cons] at h
    simp only [cellsInsert]
    split
    · next hlt =>
      refine List.pairwise_cons.mpr ⟨fun c hc => ?_, List.pairwise_cons.mpr h⟩
      rcases List.mem_cons.mp hc with hc | hc
      · subst hc; exact hlt
      · exact Nat.lt_trans hlt (h.1 c hc)
    · split
      · next heq => subst heq; exact List.pairwise_cons.mpr ⟨h.1, h.2⟩
      · refine List.pairwise_cons.mpr ⟨fun c hc => ?_, ih h.2⟩
        rcases mem_cellsInsert hc with hc | hc
        · subst hc; simp only; omega
        · exact h.1 c hc

variable (size : Nat)

/-- A write below the size keeps the canonical form. -/
theorem cellsWf_put (m : List Host.Cell) (a : Nat) (b : Byte) (h : cellsWf base size m) (ha : a < size) : cellsWf base size (cellsPut base m a b) := by
  unfold cellsPut
  split
  · exact ⟨h.1.filter _, fun c hc => h.2 c (List.mem_filter.mp hc).1⟩
  · next hb =>
    refine ⟨pairwise_cellsInsert m a b h.1, fun c hc => ?_⟩
    rcases mem_cellsInsert hc with hc | hc
    · subst hc; exact ⟨ha, hb⟩
    · exact h.2 c hc

/-- In canonical form the bytes decide the list: two memories that read alike are equal. -/
theorem cells_eq_of_get {m n : List Host.Cell} (hm : cellsWf base size m) (hn : cellsWf base size n) (h : ∀ a, cellsGet base m a = cellsGet base n a) : m = n := by
  have head (m : List Host.Cell) (hm : cellsWf base size m) (k : Nat) (hk : ∀ c ∈ m, k < c.1) : cellsGet base m k = base k :=
    cellsGet_eq_base base m k fun c hc => Nat.ne_of_gt (hk c hc)
  induction m generalizing n with
  | nil =>
    cases n with
    | nil => rfl
    | cons d n =>
      have hd := h d.1
      simp only [cellsGet, if_true] at hd
      exact absurd hd.symm (hn.2 d (by simp)).2
  | cons c m ih =>
    have hm' : cellsWf base size m := ⟨(List.pairwise_cons.mp hm.1).2, fun e he => hm.2 e (by simp [he])⟩
    have hmlt := (List.pairwise_cons.mp hm.1).1
    cases n with
    | nil =>
      have hc := h c.1
      simp only [cellsGet, if_true] at hc
      exact absurd hc (hm.2 c (by simp)).2
    | cons d n =>
      have hn' : cellsWf base size n := ⟨(List.pairwise_cons.mp hn.1).2, fun e he => hn.2 e (by simp [he])⟩
      have hnlt := (List.pairwise_cons.mp hn.1).1
      have key : c.1 = d.1 := by
        rcases Nat.lt_trichotomy c.1 d.1 with hlt | heq | hgt
        · exfalso
          have h1 := h c.1
          rw [head (d :: n) hn c.1 (by
            intro e he
            rcases List.mem_cons.mp he with he | he
            · subst he; exact hlt
            · exact Nat.lt_trans hlt (hnlt e he))] at h1
          simp only [cellsGet, if_true] at h1
          exact (hm.2 c (by simp)).2 h1
        · exact heq
        · exfalso
          have h1 := h d.1
          rw [head (c :: m) hm d.1 (by
            intro e he
            rcases List.mem_cons.mp he with he | he
            · subst he; exact hgt
            · exact Nat.lt_trans hgt (hmlt e he))] at h1
          simp only [cellsGet, if_true] at h1
          exact (hn.2 d (by simp)).2 h1.symm
      have hval : c.2 = d.2 := by
        have h1 := h c.1
        simpa [cellsGet, key] using h1
      have hcd : c = d := Prod.ext key hval
      subst hcd
      rw [ih hm' hn' fun a => ?_]
      by_cases ha : c.1 = a
      · subst ha; rw [head m hm' c.1 hmlt, head n hn' c.1 hnlt]
      · have h1 := h a
        simpa [cellsGet, ha] using h1

end Sys2Proof.Machine
end

