-- ==== Sys2Proof/Laws/Decode.lean ====
section
/-!
SUPPORT. The fields of an encoded word (30_encoding.md R81, R82), what a mask and a pattern say of a word's fields, and
the bytes of a word.
-/

namespace Sys2Proof

@[simp] theorem toFin_regBits (x : Fin 16) : (regBits x).toFin = x := rfl

/-! ## Fields of the formats (R82) -/

@[simp] theorem fieldF_formatA (f : BitVec 4) (nnn : Addr12) : fieldF (formatA f nnn) = f :=
  BitVec.extractLsb'_append_eq_left

@[simp] theorem fieldNNN_formatA (f : BitVec 4) (nnn : Addr12) : fieldNNN (formatA f nnn) = nnn :=
  BitVec.extractLsb'_append_eq_right

@[simp] theorem fieldF_formatXI (f : BitVec 4) (x : Reg) (nn : Byte) : fieldF (formatXI f x nn) = f :=
  (BitVec.extractLsb'_append_eq_of_le (xhi := f ++ regBits x) (xlo := nn) (by decide)).trans
    BitVec.extractLsb'_append_eq_left

@[simp] theorem fieldX_formatXI (f : BitVec 4) (x : Reg) (nn : Byte) : fieldX (formatXI f x nn) = x :=
  congrArg BitVec.toFin ((BitVec.extractLsb'_append_eq_of_le (xhi := f ++ regBits x) (xlo := nn) (by decide)).trans
    BitVec.extractLsb'_append_eq_right)

@[simp] theorem fieldNN_formatXI (f : BitVec 4) (x : Reg) (nn : Byte) : fieldNN (formatXI f x nn) = nn :=
  BitVec.extractLsb'_append_eq_right

@[simp] theorem fieldF_formatXYN (f : BitVec 4) (x y : Reg) (n : BitVec 4) : fieldF (formatXYN f x y n) = f :=
  (BitVec.extractLsb'_append_eq_of_le (xhi := f ++ regBits x ++ regBits y) (xlo := n) (by decide)).trans
    ((BitVec.extractLsb'_append_eq_of_le (xhi := f ++ regBits x) (xlo := regBits y) (by decide)).trans
      BitVec.extractLsb'_append_eq_left)

@[simp] theorem fieldX_formatXYN (f : BitVec 4) (x y : Reg) (n : BitVec 4) : fieldX (formatXYN f x y n) = x :=
  congrArg BitVec.toFin
    ((BitVec.extractLsb'_append_eq_of_le (xhi := f ++ regBits x ++ regBits y) (xlo := n) (by decide)).trans
      ((BitVec.extractLsb'_append_eq_of_le (xhi := f ++ regBits x) (xlo := regBits y) (by decide)).trans
        BitVec.extractLsb'_append_eq_right))

@[simp] theorem fieldY_formatXYN (f : BitVec 4) (x y : Reg) (n : BitVec 4) : fieldY (formatXYN f x y n) = y :=
  congrArg BitVec.toFin
    ((BitVec.extractLsb'_append_eq_of_le (xhi := f ++ regBits x ++ regBits y) (xlo := n) (by decide)).trans
      BitVec.extractLsb'_append_eq_right)

@[simp] theorem fieldN_formatXYN (f : BitVec 4) (x y : Reg) (n : BitVec 4) : fieldN (formatXYN f x y n) = n :=
  BitVec.extractLsb'_append_eq_right

@[simp] theorem fieldHeight_formatXYN (f : BitVec 4) (x y : Reg) (n : Fin 16) :
    fieldHeight (formatXYN f x y (regBits n)) = n := by
  rw [fieldHeight, fieldN_formatXYN, toFin_regBits]

/-! ## Masks (R85): a mask selects whole fields -/

theorem fieldF_and (w m : Word) : fieldF (w &&& m) = fieldF w &&& fieldF m := BitVec.extractLsb'_and

theorem fieldN_and (w m : Word) : fieldN (w &&& m) = fieldN w &&& fieldN m := BitVec.extractLsb'_and

theorem fieldNN_and (w m : Word) : fieldNN (w &&& m) = fieldNN w &&& fieldNN m := BitVec.extractLsb'_and

theorem and_15 (b : BitVec 4) : b &&& 15#4 = b := by revert b; decide

theorem and_255 (b : Byte) : b &&& 255#8 = b := by
  have : (255#8) = BitVec.allOnes 8 := by decide
  rw [this, BitVec.and_allOnes]

/-- A word is its four nibbles. -/
theorem word_eq_append (w : Word) :
    w = w.extractLsb' 12 4 ++ w.extractLsb' 8 4 ++ w.extractLsb' 4 4 ++ w.extractLsb' 0 4 := by
  apply BitVec.eq_of_getLsbD_eq
  intro i hi
  simp only [BitVec.getLsbD_append, BitVec.getLsbD_extractLsb']
  rcases Nat.lt_or_ge i 4 with h | h
  · simp [h]
  · rcases Nat.lt_or_ge i 8 with h8 | h8
    · have h1 : ¬ i < 4 := by omega
      have h2 : i - 4 < 4 := by omega
      have h3 : 4 + (i - 4) = i := by omega
      simp [h1, h2, h3]
    · rcases Nat.lt_or_ge i 12 with h12 | h12
      · have h1 : ¬ i < 4 := by omega
        have h2 : ¬ i - 4 < 4 := by omega
        have h3 : i - 4 - 4 < 4 := by omega
        have h4 : 8 + (i - 4 - 4) = i := by omega
        simp [h1, h2, h3, h4]
      · have h1 : ¬ i < 4 := by omega
        have h2 : ¬ i - 4 < 4 := by omega
        have h3 : ¬ i - 4 - 4 < 4 := by omega
        have h4 : i - 4 - 4 - 4 < 4 := by omega
        have h5 : 12 + (i - 4 - 4 - 4) = i := by omega
        simp [h1, h2, h3, h4, h5]

/-! ## The decoder by family (R84) -/

theorem decode_family0 {op : Word} (h : fieldF op = 0x0#4) : decode op = decodeFamily0 op := by
  simp [decode, h]

theorem decode_family1 {op : Word} (h : fieldF op = 0x1#4) : decode op = .ok (.jp (fieldNNN op)) := by
  simp [decode, h]

theorem decode_family2 {op : Word} (h : fieldF op = 0x2#4) : decode op = .ok (.call (fieldNNN op)) := by
  simp [decode, h]

theorem decode_family3 {op : Word} (h : fieldF op = 0x3#4) : decode op = .ok (.seImm (fieldX op) (fieldNN op)) := by
  simp [decode, h]

theorem decode_family4 {op : Word} (h : fieldF op = 0x4#4) : decode op = .ok (.sneImm (fieldX op) (fieldNN op)) := by
  simp [decode, h]

theorem decode_family5 {op : Word} (h : fieldF op = 0x5#4) : decode op = .ok (.seReg (fieldX op) (fieldY op)) := by
  simp [decode, h]

theorem decode_family6 {op : Word} (h : fieldF op = 0x6#4) : decode op = .ok (.ldImm (fieldX op) (fieldNN op)) := by
  simp [decode, h]

theorem decode_family7 {op : Word} (h : fieldF op = 0x7#4) : decode op = .ok (.addImm (fieldX op) (fieldNN op)) := by
  simp [decode, h]

theorem decode_family8 {op : Word} (h : fieldF op = 0x8#4) : decode op = decodeFamily8 op := by
  simp [decode, h]

theorem decode_family9 {op : Word} (h : fieldF op = 0x9#4) : decode op = .ok (.sneReg (fieldX op) (fieldY op)) := by
  simp [decode, h]

theorem decode_familyA {op : Word} (h : fieldF op = 0xA#4) : decode op = .ok (.ldI (fieldNNN op)) := by
  simp [decode, h]

theorem decode_familyB {op : Word} (h : fieldF op = 0xB#4) : decode op = .ok (.jpV0 (fieldNNN op)) := by
  simp [decode, h]

theorem decode_familyC {op : Word} (h : fieldF op = 0xC#4) : decode op = .ok (.rnd (fieldX op) (fieldNN op)) := by
  simp [decode, h]

theorem decode_familyD {op : Word} (h : fieldF op = 0xD#4) : decode op = .ok (.drw (fieldX op) (fieldY op) (fieldHeight op)) := by
  simp [decode, h]

theorem decode_familyE {op : Word} (h : fieldF op = 0xE#4) : decode op = decodeFamilyE op := by
  simp [decode, h]

theorem decode_familyF {op : Word} (h : fieldF op = 0xF#4) : decode op = decodeFamilyF op := by
  simp [decode, h]

/-- A mask over a word's family, and over its selector, settles that field. -/
theorem fieldF_of_mask {w m p : Word} (h : w &&& m = p) (hm : fieldF m = 0xF#4) : fieldF w = fieldF p := by
  rw [← h, fieldF_and, hm, and_15]

theorem fieldNN_of_mask {w m p : Word} (h : w &&& m = p) (hm : fieldNN m = 0xFF#8) : fieldNN w = fieldNN p := by
  rw [← h, fieldNN_and, hm, and_255]

theorem fieldN_of_mask {w m p : Word} (h : w &&& m = p) (hm : fieldN m = 0xF#4) : fieldN w = fieldN p := by
  rw [← h, fieldN_and, hm, and_15]

/-! ## Bytes of a word (20_memory.md R51) -/

/-- Storing a word's bytes and reading them back gives the word. -/
@[simp] theorem wordOfBytes_bytesOfWord (w : Word) : wordOfBytes (bytesOfWord w).1 (bytesOfWord w).2 = w := by
  apply BitVec.eq_of_getLsbD_eq
  intro i hi
  simp only [wordOfBytes, bytesOfWord, BitVec.getLsbD_append, BitVec.getLsbD_extractLsb']
  rcases Nat.lt_or_ge i 8 with h | h
  · simp [h]
  · have h1 : ¬ i < 8 := by omega
    have h2 : i - 8 < 8 := by omega
    have h3 : 8 + (i - 8) = i := by omega
    simp [h1, h2, h3]

theorem decodeBytes_pair (hi lo : Byte) (rest : List Byte) :
    decodeBytes (hi :: lo :: rest) = (decode (wordOfBytes hi lo)).map (fun i => (i, rest)) := by
  simp only [decodeBytes]; cases decode (wordOfBytes hi lo) <;> rfl

/-- What the host's table word decodes to is what `decode` says of the word. -/
theorem decodeTableWord_eq (nbits w : Nat) : decodeTableWord nbits w = (decode (tableWord nbits w)).toOption := by
  simp only [decodeTableWord, decodeBytes_pair, wordOfBytes_bytesOfWord]
  cases decode (tableWord nbits w) <;> rfl

end Sys2Proof
end

