-- ==== Sys2Proof/Laws/Memory.lean ====
section
/-!
SUPPORT. The laws of memory and of the display buffer: what a byte reads as after a write, and that every operation keeps
the canonical form.
-/

namespace Sys2Proof.Machine

/-! ## Memory -/

/-- A read after a write: the byte written at its own address, and every other address as before. -/
@[simp] theorem Memory.read_write (m : Memory) (p : Params) (a k : Nat) (b : Byte) :
    (m.write p a b).read p k = if k = a then b else m.read p k := cellsGet_put p.memReset m a k b

/-- Memory with nothing listed reads as the reset contents. -/
theorem Memory.read_nil (p : Params) (a : Nat) : Memory.read [] p a = p.memReset a := rfl

/-- A read after a block write: the block's byte inside it, and every other address as before. -/
theorem Memory.read_writeBlock (p : Params) (bs : List Byte) : ∀ (m : Memory) (a k : Nat),
    (m.writeBlock p a bs).read p k = if a ≤ k ∧ k < a + bs.length then bs.getD (k - a) 0 else m.read p k := by
  induction bs with
  | nil => intro m a k; have : ¬ (a ≤ k ∧ k < a) := by omega
           simp [Memory.writeBlock, this]
  | cons b bs ih =>
    intro m a k
    simp only [Memory.writeBlock, ih, Memory.read_write, List.length_cons]
    rcases Nat.lt_trichotomy k a with h | h | h
    · rw [if_neg (by omega), if_neg (by omega), if_neg (by omega)]
    · subst h; rw [if_neg (by omega), if_pos rfl, if_pos (by omega)]; simp
    · by_cases hk : k < a + 1 + bs.length
      · rw [if_pos (by omega), if_pos (by omega)]
        have : k - a = (k - (a + 1)) + 1 := by omega
        rw [this, List.getD_cons_succ]
      · rw [if_neg (by omega), if_neg (by omega), if_neg (by omega)]

/-- A write inside memory keeps the canonical form. -/
theorem Memory.wf_write (m : Memory) (p : Params) (a : Nat) (b : Byte) (h : m.wf p) (ha : a < p.memSize) :
    (m.write p a b).wf p := cellsWf_put p.memReset p.memSize m a b h ha

/-- A block write inside memory keeps the canonical form. -/
theorem Memory.wf_writeBlock (p : Params) (bs : List Byte) : ∀ (m : Memory) (a : Nat), m.wf p →
    a + bs.length ≤ p.memSize → (m.writeBlock p a bs).wf p := by
  induction bs with
  | nil => intro m a h _; exact h
  | cons b bs ih =>
    intro m a h ha
    simp only [List.length_cons] at ha
    exact ih _ _ (Memory.wf_write m p a b h (by omega)) (by omega)

/-- Empty memory, the reset contents, is in canonical form. -/
theorem Memory.wf_nil (p : Params) : Memory.wf [] p := ⟨List.Pairwise.nil, by simp⟩

@[simp] theorem Memory.length_readBlock (m : Memory) (p : Params) (a n : Nat) : (m.readBlock p a n).length = n := by
  simp [Memory.readBlock]

theorem Memory.getD_readBlock (m : Memory) (p : Params) (a n k : Nat) (h : k < n) :
    (m.readBlock p a n).getD k 0 = m.read p (a + k) := by
  simp [Memory.readBlock, List.getD, h]

/-- In canonical form the bytes decide the list: two memories that read alike are equal. -/
theorem Memory.eq_of_read {m n : Memory} (p : Params) (hm : m.wf p) (hn : n.wf p) (h : ∀ a, m.read p a = n.read p a) :
    m = n := cells_eq_of_get p.memReset p.memSize hm hn h

/-! ## The display buffer -/

/-- A pixel after one cell is set: the byte at its own cell, and every other cell as before. -/
@[simp] theorem Display.cell_setCell (d : Display) (a k : Nat) (b : Byte) :
    (d.setCell a b).cell k = if k = a then b else d.cell k := cellsGet_put Config.displayReset d a k b

/-- A clear display reads 0 everywhere. -/
@[simp] theorem Display.cell_nil (k : Nat) : Display.cell [] k = 0 := rfl

/-- Setting a cell of the buffer keeps the canonical form. -/
theorem Display.wf_setCell (d : Display) (p : Params) (a : Nat) (b : Byte) (h : d.wf p)
    (ha : a < p.displayCells) : (d.setCell a b).wf p := cellsWf_put Config.displayReset p.displayCells d a b h ha

/-- A clear display is in canonical form. -/
theorem Display.wf_nil (p : Params) : Display.wf [] p := ⟨List.Pairwise.nil, by simp⟩

/-- In canonical form the pixels decide the list. -/
theorem Display.eq_of_cell {d e : Display} (p : Params) (hd : d.wf p) (he : e.wf p) (h : ∀ k, d.cell k = e.cell k) : d = e :=
  cells_eq_of_get Config.displayReset p.displayCells hd he h

/-- What `get_display` returns at an index is that cell. -/
theorem Display.getD_bytes (d : Display) (p : Params) (k : Nat) (h : k < p.displayCells) :
    (d.bytes p).getD k 0 = d.cell k := by
  simp [Display.bytes, List.getD, h]

end Sys2Proof.Machine
end

