-- ==== Sys2Proof/Laws/State.lean ====
section
/-!
SUPPORT. One lemma per field per update of State, and one for `read`, so that no proof unfolds a record update, and the laws
of `reg`.
-/

namespace Sys2Proof.Machine

variable (s : State)

/-! ### setReg -/

@[simp] theorem State.setReg_v (x : Reg) (b : Byte) : (s.setReg x b).v = s.v.set x.val b := rfl
@[simp] theorem State.setReg_i (x : Reg) (b : Byte) : (s.setReg x b).i = s.i := rfl
@[simp] theorem State.setReg_pc (x : Reg) (b : Byte) : (s.setReg x b).pc = s.pc := rfl
@[simp] theorem State.setReg_sp (x : Reg) (b : Byte) : (s.setReg x b).sp = s.sp := rfl
@[simp] theorem State.setReg_stack (x : Reg) (b : Byte) : (s.setReg x b).stack = s.stack := rfl
@[simp] theorem State.setReg_dt (x : Reg) (b : Byte) : (s.setReg x b).dt = s.dt := rfl
@[simp] theorem State.setReg_st (x : Reg) (b : Byte) : (s.setReg x b).st = s.st := rfl
@[simp] theorem State.setReg_mem (x : Reg) (b : Byte) : (s.setReg x b).mem = s.mem := rfl
@[simp] theorem State.setReg_disp (x : Reg) (b : Byte) : (s.setReg x b).disp = s.disp := rfl
@[simp] theorem State.setReg_keys (x : Reg) (b : Byte) : (s.setReg x b).keys = s.keys := rfl
@[simp] theorem State.setReg_rng (x : Reg) (b : Byte) : (s.setReg x b).rng = s.rng := rfl
@[simp] theorem State.setReg_draws (x : Reg) (b : Byte) : (s.setReg x b).draws = s.draws := rfl
@[simp] theorem State.setReg_reply (x : Reg) (b : Byte) : (s.setReg x b).reply = s.reply := rfl
@[simp] theorem State.setReg_host (x : Reg) (b : Byte) : (s.setReg x b).host = s.host := rfl
@[simp] theorem State.setReg_params (x : Reg) (b : Byte) : (s.setReg x b).params = s.params := rfl
@[simp] theorem State.setReg_read (x : Reg) (b : Byte) (a : Nat) : (s.setReg x b).read a = s.read a := rfl

/-! ### setVF -/

@[simp] theorem State.setVF_v (b : Byte) : (s.setVF b).v = s.v.set 15 b := rfl
@[simp] theorem State.setVF_i (b : Byte) : (s.setVF b).i = s.i := rfl
@[simp] theorem State.setVF_pc (b : Byte) : (s.setVF b).pc = s.pc := rfl
@[simp] theorem State.setVF_sp (b : Byte) : (s.setVF b).sp = s.sp := rfl
@[simp] theorem State.setVF_stack (b : Byte) : (s.setVF b).stack = s.stack := rfl
@[simp] theorem State.setVF_dt (b : Byte) : (s.setVF b).dt = s.dt := rfl
@[simp] theorem State.setVF_st (b : Byte) : (s.setVF b).st = s.st := rfl
@[simp] theorem State.setVF_mem (b : Byte) : (s.setVF b).mem = s.mem := rfl
@[simp] theorem State.setVF_disp (b : Byte) : (s.setVF b).disp = s.disp := rfl
@[simp] theorem State.setVF_keys (b : Byte) : (s.setVF b).keys = s.keys := rfl
@[simp] theorem State.setVF_rng (b : Byte) : (s.setVF b).rng = s.rng := rfl
@[simp] theorem State.setVF_draws (b : Byte) : (s.setVF b).draws = s.draws := rfl
@[simp] theorem State.setVF_reply (b : Byte) : (s.setVF b).reply = s.reply := rfl
@[simp] theorem State.setVF_host (b : Byte) : (s.setVF b).host = s.host := rfl
@[simp] theorem State.setVF_params (b : Byte) : (s.setVF b).params = s.params := rfl
@[simp] theorem State.setVF_read (b : Byte) (a : Nat) : (s.setVF b).read a = s.read a := rfl

/-! ### setRegs -/

@[simp] theorem State.setRegs_v (v : Regs) : (s.setRegs v).v = v := rfl
@[simp] theorem State.setRegs_i (v : Regs) : (s.setRegs v).i = s.i := rfl
@[simp] theorem State.setRegs_pc (v : Regs) : (s.setRegs v).pc = s.pc := rfl
@[simp] theorem State.setRegs_sp (v : Regs) : (s.setRegs v).sp = s.sp := rfl
@[simp] theorem State.setRegs_stack (v : Regs) : (s.setRegs v).stack = s.stack := rfl
@[simp] theorem State.setRegs_dt (v : Regs) : (s.setRegs v).dt = s.dt := rfl
@[simp] theorem State.setRegs_st (v : Regs) : (s.setRegs v).st = s.st := rfl
@[simp] theorem State.setRegs_mem (v : Regs) : (s.setRegs v).mem = s.mem := rfl
@[simp] theorem State.setRegs_disp (v : Regs) : (s.setRegs v).disp = s.disp := rfl
@[simp] theorem State.setRegs_keys (v : Regs) : (s.setRegs v).keys = s.keys := rfl
@[simp] theorem State.setRegs_rng (v : Regs) : (s.setRegs v).rng = s.rng := rfl
@[simp] theorem State.setRegs_draws (v : Regs) : (s.setRegs v).draws = s.draws := rfl
@[simp] theorem State.setRegs_reply (v : Regs) : (s.setRegs v).reply = s.reply := rfl
@[simp] theorem State.setRegs_host (v : Regs) : (s.setRegs v).host = s.host := rfl
@[simp] theorem State.setRegs_params (v : Regs) : (s.setRegs v).params = s.params := rfl
@[simp] theorem State.setRegs_read (v : Regs) (a : Nat) : (s.setRegs v).read a = s.read a := rfl

/-! ### setI -/

@[simp] theorem State.setI_v (w : Word) : (s.setI w).v = s.v := rfl
@[simp] theorem State.setI_i (w : Word) : (s.setI w).i = w := rfl
@[simp] theorem State.setI_pc (w : Word) : (s.setI w).pc = s.pc := rfl
@[simp] theorem State.setI_sp (w : Word) : (s.setI w).sp = s.sp := rfl
@[simp] theorem State.setI_stack (w : Word) : (s.setI w).stack = s.stack := rfl
@[simp] theorem State.setI_dt (w : Word) : (s.setI w).dt = s.dt := rfl
@[simp] theorem State.setI_st (w : Word) : (s.setI w).st = s.st := rfl
@[simp] theorem State.setI_mem (w : Word) : (s.setI w).mem = s.mem := rfl
@[simp] theorem State.setI_disp (w : Word) : (s.setI w).disp = s.disp := rfl
@[simp] theorem State.setI_keys (w : Word) : (s.setI w).keys = s.keys := rfl
@[simp] theorem State.setI_rng (w : Word) : (s.setI w).rng = s.rng := rfl
@[simp] theorem State.setI_draws (w : Word) : (s.setI w).draws = s.draws := rfl
@[simp] theorem State.setI_reply (w : Word) : (s.setI w).reply = s.reply := rfl
@[simp] theorem State.setI_host (w : Word) : (s.setI w).host = s.host := rfl
@[simp] theorem State.setI_params (w : Word) : (s.setI w).params = s.params := rfl
@[simp] theorem State.setI_read (w : Word) (a : Nat) : (s.setI w).read a = s.read a := rfl

@[simp] theorem State.setI_reg (w : Word) (r : Reg) : (s.setI w).reg r = s.reg r := rfl

/-! ### setPc -/

@[simp] theorem State.setPc_v (w : Word) : (s.setPc w).v = s.v := rfl
@[simp] theorem State.setPc_i (w : Word) : (s.setPc w).i = s.i := rfl
@[simp] theorem State.setPc_pc (w : Word) : (s.setPc w).pc = w := rfl
@[simp] theorem State.setPc_sp (w : Word) : (s.setPc w).sp = s.sp := rfl
@[simp] theorem State.setPc_stack (w : Word) : (s.setPc w).stack = s.stack := rfl
@[simp] theorem State.setPc_dt (w : Word) : (s.setPc w).dt = s.dt := rfl
@[simp] theorem State.setPc_st (w : Word) : (s.setPc w).st = s.st := rfl
@[simp] theorem State.setPc_mem (w : Word) : (s.setPc w).mem = s.mem := rfl
@[simp] theorem State.setPc_disp (w : Word) : (s.setPc w).disp = s.disp := rfl
@[simp] theorem State.setPc_keys (w : Word) : (s.setPc w).keys = s.keys := rfl
@[simp] theorem State.setPc_rng (w : Word) : (s.setPc w).rng = s.rng := rfl
@[simp] theorem State.setPc_draws (w : Word) : (s.setPc w).draws = s.draws := rfl
@[simp] theorem State.setPc_reply (w : Word) : (s.setPc w).reply = s.reply := rfl
@[simp] theorem State.setPc_host (w : Word) : (s.setPc w).host = s.host := rfl
@[simp] theorem State.setPc_params (w : Word) : (s.setPc w).params = s.params := rfl
@[simp] theorem State.setPc_read (w : Word) (a : Nat) : (s.setPc w).read a = s.read a := rfl

@[simp] theorem State.setPc_reg (w : Word) (r : Reg) : (s.setPc w).reg r = s.reg r := rfl

/-! ### setDt -/

@[simp] theorem State.setDt_v (b : Byte) : (s.setDt b).v = s.v := rfl
@[simp] theorem State.setDt_i (b : Byte) : (s.setDt b).i = s.i := rfl
@[simp] theorem State.setDt_pc (b : Byte) : (s.setDt b).pc = s.pc := rfl
@[simp] theorem State.setDt_sp (b : Byte) : (s.setDt b).sp = s.sp := rfl
@[simp] theorem State.setDt_stack (b : Byte) : (s.setDt b).stack = s.stack := rfl
@[simp] theorem State.setDt_dt (b : Byte) : (s.setDt b).dt = b := rfl
@[simp] theorem State.setDt_st (b : Byte) : (s.setDt b).st = s.st := rfl
@[simp] theorem State.setDt_mem (b : Byte) : (s.setDt b).mem = s.mem := rfl
@[simp] theorem State.setDt_disp (b : Byte) : (s.setDt b).disp = s.disp := rfl
@[simp] theorem State.setDt_keys (b : Byte) : (s.setDt b).keys = s.keys := rfl
@[simp] theorem State.setDt_rng (b : Byte) : (s.setDt b).rng = s.rng := rfl
@[simp] theorem State.setDt_draws (b : Byte) : (s.setDt b).draws = s.draws := rfl
@[simp] theorem State.setDt_reply (b : Byte) : (s.setDt b).reply = s.reply := rfl
@[simp] theorem State.setDt_host (b : Byte) : (s.setDt b).host = s.host := rfl
@[simp] theorem State.setDt_params (b : Byte) : (s.setDt b).params = s.params := rfl
@[simp] theorem State.setDt_read (b : Byte) (a : Nat) : (s.setDt b).read a = s.read a := rfl

@[simp] theorem State.setDt_reg (b : Byte) (r : Reg) : (s.setDt b).reg r = s.reg r := rfl

/-! ### setSt -/

@[simp] theorem State.setSt_v (b : Byte) : (s.setSt b).v = s.v := rfl
@[simp] theorem State.setSt_i (b : Byte) : (s.setSt b).i = s.i := rfl
@[simp] theorem State.setSt_pc (b : Byte) : (s.setSt b).pc = s.pc := rfl
@[simp] theorem State.setSt_sp (b : Byte) : (s.setSt b).sp = s.sp := rfl
@[simp] theorem State.setSt_stack (b : Byte) : (s.setSt b).stack = s.stack := rfl
@[simp] theorem State.setSt_dt (b : Byte) : (s.setSt b).dt = s.dt := rfl
@[simp] theorem State.setSt_st (b : Byte) : (s.setSt b).st = b := rfl
@[simp] theorem State.setSt_mem (b : Byte) : (s.setSt b).mem = s.mem := rfl
@[simp] theorem State.setSt_disp (b : Byte) : (s.setSt b).disp = s.disp := rfl
@[simp] theorem State.setSt_keys (b : Byte) : (s.setSt b).keys = s.keys := rfl
@[simp] theorem State.setSt_rng (b : Byte) : (s.setSt b).rng = s.rng := rfl
@[simp] theorem State.setSt_draws (b : Byte) : (s.setSt b).draws = s.draws := rfl
@[simp] theorem State.setSt_reply (b : Byte) : (s.setSt b).reply = s.reply := rfl
@[simp] theorem State.setSt_host (b : Byte) : (s.setSt b).host = s.host := rfl
@[simp] theorem State.setSt_params (b : Byte) : (s.setSt b).params = s.params := rfl
@[simp] theorem State.setSt_read (b : Byte) (a : Nat) : (s.setSt b).read a = s.read a := rfl

@[simp] theorem State.setSt_reg (b : Byte) (r : Reg) : (s.setSt b).reg r = s.reg r := rfl

/-! ### setMem -/

@[simp] theorem State.setMem_v (m : Memory) : (s.setMem m).v = s.v := rfl
@[simp] theorem State.setMem_i (m : Memory) : (s.setMem m).i = s.i := rfl
@[simp] theorem State.setMem_pc (m : Memory) : (s.setMem m).pc = s.pc := rfl
@[simp] theorem State.setMem_sp (m : Memory) : (s.setMem m).sp = s.sp := rfl
@[simp] theorem State.setMem_stack (m : Memory) : (s.setMem m).stack = s.stack := rfl
@[simp] theorem State.setMem_dt (m : Memory) : (s.setMem m).dt = s.dt := rfl
@[simp] theorem State.setMem_st (m : Memory) : (s.setMem m).st = s.st := rfl
@[simp] theorem State.setMem_mem (m : Memory) : (s.setMem m).mem = m := rfl
@[simp] theorem State.setMem_disp (m : Memory) : (s.setMem m).disp = s.disp := rfl
@[simp] theorem State.setMem_keys (m : Memory) : (s.setMem m).keys = s.keys := rfl
@[simp] theorem State.setMem_rng (m : Memory) : (s.setMem m).rng = s.rng := rfl
@[simp] theorem State.setMem_draws (m : Memory) : (s.setMem m).draws = s.draws := rfl
@[simp] theorem State.setMem_reply (m : Memory) : (s.setMem m).reply = s.reply := rfl
@[simp] theorem State.setMem_host (m : Memory) : (s.setMem m).host = s.host := rfl
@[simp] theorem State.setMem_params (m : Memory) : (s.setMem m).params = s.params := rfl

@[simp] theorem State.setMem_reg (m : Memory) (r : Reg) : (s.setMem m).reg r = s.reg r := rfl

/-! ### setDisp -/

@[simp] theorem State.setDisp_v (d : Display) : (s.setDisp d).v = s.v := rfl
@[simp] theorem State.setDisp_i (d : Display) : (s.setDisp d).i = s.i := rfl
@[simp] theorem State.setDisp_pc (d : Display) : (s.setDisp d).pc = s.pc := rfl
@[simp] theorem State.setDisp_sp (d : Display) : (s.setDisp d).sp = s.sp := rfl
@[simp] theorem State.setDisp_stack (d : Display) : (s.setDisp d).stack = s.stack := rfl
@[simp] theorem State.setDisp_dt (d : Display) : (s.setDisp d).dt = s.dt := rfl
@[simp] theorem State.setDisp_st (d : Display) : (s.setDisp d).st = s.st := rfl
@[simp] theorem State.setDisp_mem (d : Display) : (s.setDisp d).mem = s.mem := rfl
@[simp] theorem State.setDisp_disp (d : Display) : (s.setDisp d).disp = d := rfl
@[simp] theorem State.setDisp_keys (d : Display) : (s.setDisp d).keys = s.keys := rfl
@[simp] theorem State.setDisp_rng (d : Display) : (s.setDisp d).rng = s.rng := rfl
@[simp] theorem State.setDisp_draws (d : Display) : (s.setDisp d).draws = s.draws := rfl
@[simp] theorem State.setDisp_reply (d : Display) : (s.setDisp d).reply = s.reply := rfl
@[simp] theorem State.setDisp_host (d : Display) : (s.setDisp d).host = s.host := rfl
@[simp] theorem State.setDisp_params (d : Display) : (s.setDisp d).params = s.params := rfl
@[simp] theorem State.setDisp_read (d : Display) (a : Nat) : (s.setDisp d).read a = s.read a := rfl

@[simp] theorem State.setDisp_reg (d : Display) (r : Reg) : (s.setDisp d).reg r = s.reg r := rfl

/-! ### setKeys -/

@[simp] theorem State.setKeys_v (k : Keys) : (s.setKeys k).v = s.v := rfl
@[simp] theorem State.setKeys_i (k : Keys) : (s.setKeys k).i = s.i := rfl
@[simp] theorem State.setKeys_pc (k : Keys) : (s.setKeys k).pc = s.pc := rfl
@[simp] theorem State.setKeys_sp (k : Keys) : (s.setKeys k).sp = s.sp := rfl
@[simp] theorem State.setKeys_stack (k : Keys) : (s.setKeys k).stack = s.stack := rfl
@[simp] theorem State.setKeys_dt (k : Keys) : (s.setKeys k).dt = s.dt := rfl
@[simp] theorem State.setKeys_st (k : Keys) : (s.setKeys k).st = s.st := rfl
@[simp] theorem State.setKeys_mem (k : Keys) : (s.setKeys k).mem = s.mem := rfl
@[simp] theorem State.setKeys_disp (k : Keys) : (s.setKeys k).disp = s.disp := rfl
@[simp] theorem State.setKeys_keys (k : Keys) : (s.setKeys k).keys = k := rfl
@[simp] theorem State.setKeys_rng (k : Keys) : (s.setKeys k).rng = s.rng := rfl
@[simp] theorem State.setKeys_draws (k : Keys) : (s.setKeys k).draws = s.draws := rfl
@[simp] theorem State.setKeys_reply (k : Keys) : (s.setKeys k).reply = s.reply := rfl
@[simp] theorem State.setKeys_host (k : Keys) : (s.setKeys k).host = s.host := rfl
@[simp] theorem State.setKeys_params (k : Keys) : (s.setKeys k).params = s.params := rfl
@[simp] theorem State.setKeys_read (k : Keys) (a : Nat) : (s.setKeys k).read a = s.read a := rfl

@[simp] theorem State.setKeys_reg (k : Keys) (r : Reg) : (s.setKeys k).reg r = s.reg r := rfl

/-! ### setStack -/

@[simp] theorem State.setStack_v (p : Fin (Config.stackDepth + 1)) (k : Stack) : (s.setStack p k).v = s.v := rfl
@[simp] theorem State.setStack_i (p : Fin (Config.stackDepth + 1)) (k : Stack) : (s.setStack p k).i = s.i := rfl
@[simp] theorem State.setStack_pc (p : Fin (Config.stackDepth + 1)) (k : Stack) : (s.setStack p k).pc = s.pc := rfl
@[simp] theorem State.setStack_sp (p : Fin (Config.stackDepth + 1)) (k : Stack) : (s.setStack p k).sp = p := rfl
@[simp] theorem State.setStack_stack (p : Fin (Config.stackDepth + 1)) (k : Stack) : (s.setStack p k).stack = k := rfl
@[simp] theorem State.setStack_dt (p : Fin (Config.stackDepth + 1)) (k : Stack) : (s.setStack p k).dt = s.dt := rfl
@[simp] theorem State.setStack_st (p : Fin (Config.stackDepth + 1)) (k : Stack) : (s.setStack p k).st = s.st := rfl
@[simp] theorem State.setStack_mem (p : Fin (Config.stackDepth + 1)) (k : Stack) : (s.setStack p k).mem = s.mem := rfl
@[simp] theorem State.setStack_disp (p : Fin (Config.stackDepth + 1)) (k : Stack) : (s.setStack p k).disp = s.disp := rfl
@[simp] theorem State.setStack_keys (p : Fin (Config.stackDepth + 1)) (k : Stack) : (s.setStack p k).keys = s.keys := rfl
@[simp] theorem State.setStack_rng (p : Fin (Config.stackDepth + 1)) (k : Stack) : (s.setStack p k).rng = s.rng := rfl
@[simp] theorem State.setStack_draws (p : Fin (Config.stackDepth + 1)) (k : Stack) : (s.setStack p k).draws = s.draws := rfl
@[simp] theorem State.setStack_reply (p : Fin (Config.stackDepth + 1)) (k : Stack) : (s.setStack p k).reply = s.reply := rfl
@[simp] theorem State.setStack_host (p : Fin (Config.stackDepth + 1)) (k : Stack) : (s.setStack p k).host = s.host := rfl
@[simp] theorem State.setStack_params (p : Fin (Config.stackDepth + 1)) (k : Stack) : (s.setStack p k).params = s.params := rfl
@[simp] theorem State.setStack_read (p : Fin (Config.stackDepth + 1)) (k : Stack) (a : Nat) : (s.setStack p k).read a = s.read a := rfl

@[simp] theorem State.setStack_reg (p : Fin (Config.stackDepth + 1)) (k : Stack) (r : Reg) : (s.setStack p k).reg r = s.reg r := rfl

/-! ### countDraw -/

@[simp] theorem State.countDraw_v : s.countDraw.v = s.v := rfl
@[simp] theorem State.countDraw_i : s.countDraw.i = s.i := rfl
@[simp] theorem State.countDraw_pc : s.countDraw.pc = s.pc := rfl
@[simp] theorem State.countDraw_sp : s.countDraw.sp = s.sp := rfl
@[simp] theorem State.countDraw_stack : s.countDraw.stack = s.stack := rfl
@[simp] theorem State.countDraw_dt : s.countDraw.dt = s.dt := rfl
@[simp] theorem State.countDraw_st : s.countDraw.st = s.st := rfl
@[simp] theorem State.countDraw_mem : s.countDraw.mem = s.mem := rfl
@[simp] theorem State.countDraw_disp : s.countDraw.disp = s.disp := rfl
@[simp] theorem State.countDraw_keys : s.countDraw.keys = s.keys := rfl
@[simp] theorem State.countDraw_rng : s.countDraw.rng = (rngNext s.rng).1 := rfl
@[simp] theorem State.countDraw_draws : s.countDraw.draws = s.draws + 1 := rfl
@[simp] theorem State.countDraw_reply : s.countDraw.reply = s.reply := rfl
@[simp] theorem State.countDraw_host : s.countDraw.host = s.host := rfl
@[simp] theorem State.countDraw_params : s.countDraw.params = s.params := rfl
@[simp] theorem State.countDraw_read (a : Nat) : s.countDraw.read a = s.read a := rfl

@[simp] theorem State.countDraw_reg (r : Reg) : s.countDraw.reg r = s.reg r := rfl

/-! ### setReply -/

@[simp] theorem State.setReply_v (p : Reply) : (s.setReply p).v = s.v := rfl
@[simp] theorem State.setReply_i (p : Reply) : (s.setReply p).i = s.i := rfl
@[simp] theorem State.setReply_pc (p : Reply) : (s.setReply p).pc = s.pc := rfl
@[simp] theorem State.setReply_sp (p : Reply) : (s.setReply p).sp = s.sp := rfl
@[simp] theorem State.setReply_stack (p : Reply) : (s.setReply p).stack = s.stack := rfl
@[simp] theorem State.setReply_dt (p : Reply) : (s.setReply p).dt = s.dt := rfl
@[simp] theorem State.setReply_st (p : Reply) : (s.setReply p).st = s.st := rfl
@[simp] theorem State.setReply_mem (p : Reply) : (s.setReply p).mem = s.mem := rfl
@[simp] theorem State.setReply_disp (p : Reply) : (s.setReply p).disp = s.disp := rfl
@[simp] theorem State.setReply_keys (p : Reply) : (s.setReply p).keys = s.keys := rfl
@[simp] theorem State.setReply_rng (p : Reply) : (s.setReply p).rng = s.rng := rfl
@[simp] theorem State.setReply_draws (p : Reply) : (s.setReply p).draws = s.draws := rfl
@[simp] theorem State.setReply_reply (p : Reply) : (s.setReply p).reply = p := rfl
@[simp] theorem State.setReply_host (p : Reply) : (s.setReply p).host = s.host := rfl
@[simp] theorem State.setReply_params (p : Reply) : (s.setReply p).params = s.params := rfl
@[simp] theorem State.setReply_read (p : Reply) (a : Nat) : (s.setReply p).read a = s.read a := rfl

@[simp] theorem State.setReply_reg (p : Reply) (r : Reg) : (s.setReply p).reg r = s.reg r := rfl

/-! ### setHost -/

@[simp] theorem State.setHost_v (h : HostPlan) : (s.setHost h).v = s.v := rfl
@[simp] theorem State.setHost_i (h : HostPlan) : (s.setHost h).i = s.i := rfl
@[simp] theorem State.setHost_pc (h : HostPlan) : (s.setHost h).pc = s.pc := rfl
@[simp] theorem State.setHost_sp (h : HostPlan) : (s.setHost h).sp = s.sp := rfl
@[simp] theorem State.setHost_stack (h : HostPlan) : (s.setHost h).stack = s.stack := rfl
@[simp] theorem State.setHost_dt (h : HostPlan) : (s.setHost h).dt = s.dt := rfl
@[simp] theorem State.setHost_st (h : HostPlan) : (s.setHost h).st = s.st := rfl
@[simp] theorem State.setHost_mem (h : HostPlan) : (s.setHost h).mem = s.mem := rfl
@[simp] theorem State.setHost_disp (h : HostPlan) : (s.setHost h).disp = s.disp := rfl
@[simp] theorem State.setHost_keys (h : HostPlan) : (s.setHost h).keys = s.keys := rfl
@[simp] theorem State.setHost_rng (h : HostPlan) : (s.setHost h).rng = s.rng := rfl
@[simp] theorem State.setHost_draws (h : HostPlan) : (s.setHost h).draws = s.draws := rfl
@[simp] theorem State.setHost_reply (h : HostPlan) : (s.setHost h).reply = s.reply := rfl
@[simp] theorem State.setHost_host (h : HostPlan) : (s.setHost h).host = h := rfl
@[simp] theorem State.setHost_params (h : HostPlan) : (s.setHost h).params = s.params := rfl
@[simp] theorem State.setHost_read (h : HostPlan) (a : Nat) : (s.setHost h).read a = s.read a := rfl

@[simp] theorem State.setHost_reg (h : HostPlan) (r : Reg) : (s.setHost h).reg r = s.reg r := rfl

/-! ### advance -/

@[simp] theorem State.advance_v : s.advance.v = s.v := rfl
@[simp] theorem State.advance_i : s.advance.i = s.i := rfl
@[simp] theorem State.advance_pc : s.advance.pc = s.pc + 2 := rfl
@[simp] theorem State.advance_sp : s.advance.sp = s.sp := rfl
@[simp] theorem State.advance_stack : s.advance.stack = s.stack := rfl
@[simp] theorem State.advance_dt : s.advance.dt = s.dt := rfl
@[simp] theorem State.advance_st : s.advance.st = s.st := rfl
@[simp] theorem State.advance_mem : s.advance.mem = s.mem := rfl
@[simp] theorem State.advance_disp : s.advance.disp = s.disp := rfl
@[simp] theorem State.advance_keys : s.advance.keys = s.keys := rfl
@[simp] theorem State.advance_rng : s.advance.rng = s.rng := rfl
@[simp] theorem State.advance_draws : s.advance.draws = s.draws := rfl
@[simp] theorem State.advance_reply : s.advance.reply = s.reply := rfl
@[simp] theorem State.advance_host : s.advance.host = s.host := rfl
@[simp] theorem State.advance_params : s.advance.params = s.params := rfl
@[simp] theorem State.advance_read (a : Nat) : s.advance.read a = s.read a := rfl

@[simp] theorem State.advance_reg (r : Reg) : s.advance.reg r = s.reg r := rfl

/-! ### skipIf: only the program counter depends on the condition -/

@[simp] theorem State.skipIf_v (c : Bool) : (s.skipIf c).v = s.v := by cases c <;> rfl
@[simp] theorem State.skipIf_i (c : Bool) : (s.skipIf c).i = s.i := by cases c <;> rfl
@[simp] theorem State.skipIf_sp (c : Bool) : (s.skipIf c).sp = s.sp := by cases c <;> rfl
@[simp] theorem State.skipIf_stack (c : Bool) : (s.skipIf c).stack = s.stack := by cases c <;> rfl
@[simp] theorem State.skipIf_dt (c : Bool) : (s.skipIf c).dt = s.dt := by cases c <;> rfl
@[simp] theorem State.skipIf_st (c : Bool) : (s.skipIf c).st = s.st := by cases c <;> rfl
@[simp] theorem State.skipIf_mem (c : Bool) : (s.skipIf c).mem = s.mem := by cases c <;> rfl
@[simp] theorem State.skipIf_disp (c : Bool) : (s.skipIf c).disp = s.disp := by cases c <;> rfl
@[simp] theorem State.skipIf_keys (c : Bool) : (s.skipIf c).keys = s.keys := by cases c <;> rfl
@[simp] theorem State.skipIf_rng (c : Bool) : (s.skipIf c).rng = s.rng := by cases c <;> rfl
@[simp] theorem State.skipIf_draws (c : Bool) : (s.skipIf c).draws = s.draws := by cases c <;> rfl
@[simp] theorem State.skipIf_reply (c : Bool) : (s.skipIf c).reply = s.reply := by cases c <;> rfl
@[simp] theorem State.skipIf_host (c : Bool) : (s.skipIf c).host = s.host := by cases c <;> rfl
@[simp] theorem State.skipIf_params (c : Bool) : (s.skipIf c).params = s.params := by cases c <;> rfl
@[simp] theorem State.skipIf_read (c : Bool) (a : Nat) : (s.skipIf c).read a = s.read a := by cases c <;> rfl
@[simp] theorem State.skipIf_pc (c : Bool) : (s.skipIf c).pc = if c then s.pc + 2 else s.pc := by cases c <;> rfl
@[simp] theorem State.skipIf_reg (c : Bool) (r : Reg) : (s.skipIf c).reg r = s.reg r := by cases c <;> rfl

/-! ### registers -/

@[simp] theorem State.reg_setReg (x r : Reg) (b : Byte) : (s.setReg x b).reg r = if r = x then b else s.reg r := by
  simp only [State.reg, State.setReg_v, Vector.getElem_set, Fin.ext_iff, eq_comm]

@[simp] theorem State.reg_setVF (r : Reg) (b : Byte) : (s.setVF b).reg r = if r = regVF then b else s.reg r :=
  State.reg_setReg s regVF r b

@[simp] theorem State.reg_setRegs (r : Reg) (v : Regs) : (s.setRegs v).reg r = v[r.val] := rfl

/-! ### writeBlock -/

@[simp] theorem State.writeBlock_v (a : Nat) (bs : List Byte) : (s.writeBlock a bs).v = s.v := rfl
@[simp] theorem State.writeBlock_i (a : Nat) (bs : List Byte) : (s.writeBlock a bs).i = s.i := rfl
@[simp] theorem State.writeBlock_pc (a : Nat) (bs : List Byte) : (s.writeBlock a bs).pc = s.pc := rfl
@[simp] theorem State.writeBlock_sp (a : Nat) (bs : List Byte) : (s.writeBlock a bs).sp = s.sp := rfl
@[simp] theorem State.writeBlock_stack (a : Nat) (bs : List Byte) : (s.writeBlock a bs).stack = s.stack := rfl
@[simp] theorem State.writeBlock_dt (a : Nat) (bs : List Byte) : (s.writeBlock a bs).dt = s.dt := rfl
@[simp] theorem State.writeBlock_st (a : Nat) (bs : List Byte) : (s.writeBlock a bs).st = s.st := rfl
@[simp] theorem State.writeBlock_disp (a : Nat) (bs : List Byte) : (s.writeBlock a bs).disp = s.disp := rfl
@[simp] theorem State.writeBlock_keys (a : Nat) (bs : List Byte) : (s.writeBlock a bs).keys = s.keys := rfl
@[simp] theorem State.writeBlock_rng (a : Nat) (bs : List Byte) : (s.writeBlock a bs).rng = s.rng := rfl
@[simp] theorem State.writeBlock_draws (a : Nat) (bs : List Byte) : (s.writeBlock a bs).draws = s.draws := rfl
@[simp] theorem State.writeBlock_reply (a : Nat) (bs : List Byte) : (s.writeBlock a bs).reply = s.reply := rfl
@[simp] theorem State.writeBlock_host (a : Nat) (bs : List Byte) : (s.writeBlock a bs).host = s.host := rfl
@[simp] theorem State.writeBlock_params (a : Nat) (bs : List Byte) : (s.writeBlock a bs).params = s.params := rfl
@[simp] theorem State.writeBlock_mem (a : Nat) (bs : List Byte) : (s.writeBlock a bs).mem = s.mem.writeBlock s.params a bs :=
  rfl
@[simp] theorem State.writeBlock_reg (a : Nat) (bs : List Byte) (r : Reg) : (s.writeBlock a bs).reg r = s.reg r := rfl

/-! ### memory -/

@[simp] theorem State.setMem_read (m : Memory) (a : Nat) : (s.setMem m).read a = m.read s.params a := rfl

/-- Two states agree on every field when they agree on each. -/
theorem State.ext_fields {s t : State} (hv : s.v = t.v) (hi : s.i = t.i) (hpc : s.pc = t.pc) (hsp : s.sp = t.sp)
    (hstack : s.stack = t.stack) (hdt : s.dt = t.dt) (hst : s.st = t.st) (hmem : s.mem = t.mem)
    (hdisp : s.disp = t.disp) (hkeys : s.keys = t.keys) (hrng : s.rng = t.rng) (hdraws : s.draws = t.draws)
    (hreply : s.reply = t.reply) (hhost : s.host = t.host) (hparams : s.params = t.params) : s = t := by
  cases s; cases t; simp_all

/-- The register file is determined by its registers. -/
theorem State.regs_ext {v w : Regs} (h : ∀ r : Reg, v[r.val] = w[r.val]) : v = w :=
  Vector.ext fun k hk => h ⟨k, hk⟩

end Sys2Proof.Machine
end

