-- ==== Sys2Proof/Laws/Ops.lean ====
section
/-!
SUPPORT. For each shared operation, once, everything it can answer; and the values of the operand forms and flags in
plain arithmetic.
-/

namespace Sys2Proof.Machine

/-! ## Ends of a transaction -/

theorem complete_eq (s : State) : complete s = .next (s.setReply .ok) := rfl

theorem raise_error (e : EngineError) (s : State) : raise (.error e) s = .next (s.setReply (.error e)) := rfl

theorem raise_memory (n : Nat) (s : State) : raise (.memoryOutOfBounds n) s = .fault (.memoryOutOfBounds n s) := rfl

theorem raise_stackOverflow (s : State) : raise .stackOverflow s = .fault (.stackOverflow s) := rfl

theorem raise_stackUnderflow (s : State) : raise .stackUnderflow s = .fault (.stackUnderflow s) := rfl

/-- `raise` answers a next state for an error and a fault for the rest, and changes nothing but the reply. -/
theorem raise_cases (f : Failure) (s : State) :
    (∃ e, f = .error e ∧ raise f s = .next (s.setReply (.error e))) ∨
    (∃ n, f = .memoryOutOfBounds n ∧ raise f s = .fault (.memoryOutOfBounds n s)) ∨
    (f = .stackOverflow ∧ raise f s = .fault (.stackOverflow s)) ∨
    (f = .stackUnderflow ∧ raise f s = .fault (.stackUnderflow s)) := by
  cases f with
  | error e => exact .inl ⟨e, rfl, rfl⟩
  | memoryOutOfBounds n => exact .inr (.inl ⟨n, rfl, rfl⟩)
  | stackOverflow => exact .inr (.inr (.inl ⟨rfl, rfl⟩))
  | stackUnderflow => exact .inr (.inr (.inr ⟨rfl, rfl⟩))

theorem checkBlock_inside {addr n : Nat} (s : State) (k : Result) (h : addr + n ≤ s.params.memSize) :
    checkBlock addr n s k = k := if_pos h

theorem checkBlock_outside {addr n : Nat} (s : State) (k : Result) (h : ¬ addr + n ≤ s.params.memSize) :
    checkBlock addr n s k = .fault (.memoryOutOfBounds (addr + n) s) := if_neg h

/-- `checkBlock` goes on inside memory and faults outside it. -/
theorem checkBlock_cases (addr n : Nat) (s : State) (k : Result) :
    (addr + n ≤ s.params.memSize ∧ checkBlock addr n s k = k) ∨
    (s.params.memSize < addr + n ∧ checkBlock addr n s k = .fault (.memoryOutOfBounds (addr + n) s)) := by
  by_cases h : addr + n ≤ s.params.memSize
  · exact .inl ⟨h, checkBlock_inside s k h⟩
  · exact .inr ⟨by omega, checkBlock_outside s k h⟩

theorem keyGet_inside (s : State) {k : Nat} (f : Bool → Result) (h : k < Config.numKeys) :
    keyGet s k f = f s.keys[k] := dif_pos h

theorem keyGet_outside (s : State) {k : Nat} (f : Bool → Result) (h : ¬ k < Config.numKeys) :
    keyGet s k f = .next (s.setReply (.error (.keyIndexOutOfBounds k))) := dif_neg h

/-- `keyGet` goes on with the key's state, or hands `KeyIndexOutOfBounds` to the host. -/
theorem keyGet_cases (s : State) (k : Nat) (f : Bool → Result) :
    (∃ h : k < Config.numKeys, keyGet s k f = f s.keys[k]) ∨
    (Config.numKeys ≤ k ∧ keyGet s k f = .next (s.setReply (.error (.keyIndexOutOfBounds k)))) := by
  by_cases h : k < Config.numKeys
  · exact .inl ⟨h, keyGet_inside s f h⟩
  · exact .inr ⟨by omega, keyGet_outside s f h⟩

theorem writeResult_eq (x : Reg) (r : Byte) (s : State) :
    writeResult x r s = .next ((s.setReg x r).setReply .ok) := rfl

theorem writeResultAndFlag_eq (x : Reg) (r flag : Byte) (s : State) :
    writeResultAndFlag x r flag s = .next (((s.setReg x r).setVF flag).setReply .ok) := rfl

/-! ## Flags in plain arithmetic -/

theorem flagOf_true : flagOf true = 1 := rfl

theorem flagOf_false : flagOf false = 0 := rfl

theorem carryFlag_eq (x y : Byte) : carryFlag x y = if x.toNat + y.toNat > 255 then 1 else 0 := by
  simp [carryFlag, flagOf]

theorem noBorrowFlag_eq (x y : Byte) : noBorrowFlag x y = if y.toNat ≤ x.toNat then 1 else 0 := by
  simp [noBorrowFlag, flagOf]

theorem toNat_lsbFlag (x : Byte) : (lsbFlag x).toNat = x.toNat % 2 := by
  have h : (lsbFlag x).toNat = x.toNat &&& 1 := by simp [lsbFlag]
  rw [h, Nat.and_one_is_mod]

theorem msbFlag_eq (x : Byte) : msbFlag x = if 128 ≤ x.toNat then 0x80 else 0 := by
  revert x; decide +kernel

/-! ## Blocks of the state's memory -/

@[simp] theorem State.read_writeBlock (s : State) (a k : Nat) (bs : List Byte) :
    (s.writeBlock a bs).read k = if a ≤ k ∧ k < a + bs.length then bs.getD (k - a) 0 else s.read k :=
  Memory.read_writeBlock s.params bs s.mem a k

@[simp] theorem State.length_readBlock (s : State) (a n : Nat) : (s.readBlock a n).length = n :=
  Memory.length_readBlock s.mem s.params a n

theorem State.getD_readBlock (s : State) (a n k : Nat) (h : k < n) : (s.readBlock a n).getD k 0 = s.read (a + k) :=
  Memory.getD_readBlock s.mem s.params a n k h

/-! ## Operand forms in plain arithmetic -/

@[simp] theorem toNat_zextAddr (nnn : Addr12) : (zextAddr nnn).toNat = nnn.toNat := by
  simp only [zextAddr, BitVec.toNat_setWidth]
  exact Nat.mod_eq_of_lt (by have := nnn.isLt; omega)

@[simp] theorem toNat_zextByte (b : Byte) : (zextByte b).toNat = b.toNat := by
  simp only [zextByte, BitVec.toNat_setWidth]
  exact Nat.mod_eq_of_lt (by have := b.isLt; omega)

theorem toNat_glyphAddr (b : Byte) : (glyphAddr b).toNat = b.toNat * 5 := by
  simp only [glyphAddr, BitVec.toNat_ofNat, Config.glyphBytes]
  exact Nat.mod_eq_of_lt (by have := b.isLt; omega)

@[simp] theorem length_bcdDigits (b : Byte) : (bcdDigits b).length = 3 := rfl

@[simp] theorem length_regRange (s : State) (x : Reg) : (regRange s x).length = x.val + 1 := by
  have := x.isLt
  simp [regRange, rangeCount]

theorem getD_regRange (s : State) (x r : Reg) (h : r ≤ x) : (regRange s x).getD r.val 0 = s.reg r := by
  have h1 : r.val < rangeCount x := by
    have : r.val ≤ x.val := h
    simp only [rangeCount]; omega
  have h2 := r.isLt
  simp [regRange, State.reg, List.getD, h1]

/-- What `FX65` loads: the registers below the count come from memory, the others stay. -/
theorem getElem_loadRange (s : State) (base : Nat) (v : Regs) (r : Reg) : ∀ n, n ≤ Config.numRegs →
    (loadRange s base n v)[r.val] = if r.val < n then s.read (base + r.val) else v[r.val] := by
  intro n
  induction n with
  | zero => intro _; simp [loadRange]
  | succ n ih =>
    intro hn
    simp only [loadRange, Vector.getElem_setIfInBounds, ih (by omega)]
    rcases Nat.lt_trichotomy r.val n with h | h | h
    · rw [if_neg (by omega), if_pos h, if_pos (by omega)]
    · subst h; simp
    · rw [if_neg (by omega), if_neg (by omega), if_neg (by omega)]

end Sys2Proof.Machine
end

