-- ==== Sys2Proof/Laws/Screen.lean ====
section
/-!
SUPPORT. The laws of the display buffer: the wrapped coordinates are always inside the grid, so a draw never raises
`PixelOutOfBounds`, and what a draw leaves in each cell.
-/

namespace Sys2Proof.Machine

/-- A pixel inside the grid has a cell of the buffer (R181). -/
theorem pixelIndex_lt {p : Params} {x y : Nat} (hx : x < p.displayWidth) (hy : y < p.displayHeight) :
    pixelIndex p x y < p.displayCells := by
  simp only [pixelIndex, Params.displayCells]
  calc y * p.displayWidth + x < y * p.displayWidth + p.displayWidth := by omega
    _ = (y + 1) * p.displayWidth := by rw [Nat.add_mul, Nat.one_mul]
    _ ≤ p.displayHeight * p.displayWidth := Nat.mul_le_mul_right _ hy
    _ = p.displayWidth * p.displayHeight := Nat.mul_comm _ _

/-- Different pixels inside the grid have different cells. -/
theorem pixelIndex_inj {p : Params} {x y x' y' : Nat} (hx : x < p.displayWidth) (hx' : x' < p.displayWidth)
    (h : pixelIndex p x y = pixelIndex p x' y') : x = x' ∧ y = y' := by
  have hx1 : x = x' := by
    have := congrArg (· % p.displayWidth) h
    simpa [pixelIndex, Nat.mul_add_mod', Nat.mod_eq_of_lt hx, Nat.mod_eq_of_lt hx'] using this
  subst hx1
  have : y * p.displayWidth = y' * p.displayWidth := by simp only [pixelIndex] at h; omega
  exact ⟨rfl, Nat.eq_of_mul_eq_mul_right (by omega) this⟩

/-- The pixel is inside the grid. -/
def InGrid (p : Params) (q : Nat × Nat) : Prop := q.1 < p.displayWidth ∧ q.2 < p.displayHeight

theorem pixelGet_inside {p : Params} (d : Display) {x y : Nat} (hx : x < p.displayWidth) (hy : y < p.displayHeight) :
    pixelGet p d x y = .ok (d.cell (pixelIndex p x y)) := if_pos ⟨hx, hy⟩

theorem pixelSet_inside {p : Params} (d : Display) {x y : Nat} (b : Byte) (hx : x < p.displayWidth)
    (hy : y < p.displayHeight) : pixelSet p d x y b = .ok (d.setCell (pixelIndex p x y) b) := if_pos ⟨hx, hy⟩

theorem pixelGet_outside {p : Params} (d : Display) {x y : Nat} (h : ¬ (x < p.displayWidth ∧ y < p.displayHeight)) :
    pixelGet p d x y = .error (.pixelOutOfBounds x y) := if_neg h

theorem pixelSet_outside {p : Params} (d : Display) {x y : Nat} (b : Byte)
    (h : ¬ (x < p.displayWidth ∧ y < p.displayHeight)) :
    pixelSet p d x y b = .error (.pixelOutOfBounds x y) := if_neg h

/-- A clear display, whatever its cell. -/
@[simp] theorem cell_clearDisplay (k : Nat) : clearDisplay.cell k = 0 := rfl

/-! ### The pixels under a sprite -/

/-- The rows and columns of a sprite of `n` rows, in the order a draw takes them (R187). -/
def spriteBits (n : Nat) : List (Nat × Nat) := (List.range n).flatMap (fun r => (List.range 8).map (fun c => (r, c)))

/-- The pixels under a sprite are those of its set bits, in order (R184, R186, R187). -/
theorem spritePixels_eq (p : Params) (x : Nat) (sprite : List Byte) : ∀ y, spritePixels p x y sprite =
    ((spriteBits sprite.length).filter (fun rc => (sprite.getD rc.1 0).getLsbD (7 - rc.2))).map
      (fun rc => ((x + rc.2) % p.displayWidth, (y + rc.1) % p.displayHeight)) := by
  induction sprite with
  | nil => intro y; rfl
  | cons b rows ih =>
    intro y
    simp only [spritePixels, rowPixels, ih, spriteBits, List.length_cons, List.range_succ_eq_map, List.flatMap_cons,
      List.flatMap_map, List.filter_append, List.map_append]
    congr 1
    · rw [List.filter_map, List.map_map]; rfl
    · simp only [List.filter_flatMap, List.map_flatMap, List.filter_map, List.map_map, Function.comp_def,
        List.getD_cons_succ]
      simp only [Nat.add_assoc, Nat.add_comm 1]

/-- Every pixel a sprite touches is inside the grid, because each coordinate is reduced (R186). -/
theorem inGrid_spritePixels {p : Params} (hp : p.ok) {x y : Nat} {sprite : List Byte} {q : Nat × Nat}
    (h : q ∈ spritePixels p x y sprite) : InGrid p q := by
  rw [spritePixels_eq] at h
  obtain ⟨rc, -, rfl⟩ := List.mem_map.mp h
  obtain ⟨-, -, -, hw, hh, -⟩ := hp
  exact ⟨Nat.mod_lt _ (by omega), Nat.mod_lt _ hh⟩

/-- How often a sprite lists a pixel: once for each set bit that lies on it. -/
theorem count_spritePixels (p : Params) (x y : Nat) (sprite : List Byte) (q : Nat × Nat) :
    (spritePixels p x y sprite).count q = (spriteBits sprite.length).countP (fun rc =>
      (sprite.getD rc.1 0).getLsbD (7 - rc.2) &&
        ((x + rc.2) % p.displayWidth, (y + rc.1) % p.displayHeight) == q) := by
  rw [spritePixels_eq, List.count, List.countP_map, List.countP_filter]
  simp only [Function.comp_def, Bool.and_comm]

/-! ### Toggling -/

/-- Toggling one more pixel inside the grid. -/
theorem togglePixels_cons {p : Params} {px py : Nat} (rest : List (Nat × Nat)) (d : Display) (c : Bool)
    (hx : px < p.displayWidth) (hy : py < p.displayHeight) :
    togglePixels p ((px, py) :: rest) d c =
      togglePixels p rest (d.setCell (pixelIndex p px py) (d.cell (pixelIndex p px py) ^^^ 1))
        (c || d.cell (pixelIndex p px py) == 1) := by
  simp only [togglePixels, pixelGet_inside d hx hy, pixelSet_inside d _ hx hy]

/-- Toggling pixels inside the grid raises nothing. -/
theorem togglePixels_ok {p : Params} (ps : List (Nat × Nat)) : (∀ q ∈ ps, InGrid p q) → ∀ (d : Display) (c : Bool),
    ∃ d' c', togglePixels p ps d c = .ok (d', c') := by
  induction ps with
  | nil => intro _ d c; exact ⟨d, c, rfl⟩
  | cons q rest ih =>
    intro h d c
    obtain ⟨hx, hy⟩ := h q (by simp)
    rw [togglePixels_cons rest d c hx hy]
    exact ih (fun r hr => h r (by simp [hr])) _ _

/-- Toggling keeps the display in canonical form and every pixel 0 or 1 (R185). -/
theorem togglePixels_keeps {p : Params} (ps : List (Nat × Nat)) : (∀ q ∈ ps, InGrid p q) →
    ∀ (d : Display) (c : Bool) (d' : Display) (c' : Bool), d.wf p → (∀ k, d.cell k = 0 ∨ d.cell k = 1) →
      togglePixels p ps d c = .ok (d', c') → d'.wf p ∧ ∀ k, d'.cell k = 0 ∨ d'.cell k = 1 := by
  induction ps with
  | nil => intro _ d c d' c' hw hd h; cases h; exact ⟨hw, hd⟩
  | cons q rest ih =>
    intro hp d c d' c' hw hd h
    obtain ⟨hx, hy⟩ := hp q (by simp)
    rw [togglePixels_cons rest d c hx hy] at h
    refine ih (fun r hr => hp r (by simp [hr])) _ _ _ _ (Display.wf_setCell d p _ _ hw (pixelIndex_lt hx hy))
      (fun k => ?_) h
    rw [Display.cell_setCell]
    split
    · rcases hd (pixelIndex p q.1 q.2) with h0 | h0 <;> rw [h0] <;> decide
    · exact hd k

/-- What toggling leaves: a pixel is toggled once for every time it is listed, and no other cell changes (R185, R187). -/
theorem togglePixels_cell {p : Params} (ps : List (Nat × Nat)) : (∀ q ∈ ps, InGrid p q) →
    ∀ (d : Display) (c : Bool) (d' : Display) (c' : Bool), togglePixels p ps d c = .ok (d', c') →
      (∀ q, InGrid p q → d'.cell (pixelIndex p q.1 q.2) =
        if ps.count q % 2 = 1 then d.cell (pixelIndex p q.1 q.2) ^^^ 1 else d.cell (pixelIndex p q.1 q.2)) ∧
      ∀ k, (∀ q ∈ ps, pixelIndex p q.1 q.2 ≠ k) → d'.cell k = d.cell k := by
  induction ps with
  | nil => intro _ d c d' c' h; cases h; simp
  | cons q rest ih =>
    intro hp d c d' c' h
    obtain ⟨hx, hy⟩ := hp q (by simp)
    rw [togglePixels_cons rest d c hx hy] at h
    obtain ⟨h1, h2⟩ := ih (fun r hr => hp r (by simp [hr])) _ _ _ _ h
    refine ⟨fun r hr => ?_, fun k hk => ?_⟩
    · rw [h1 r hr, Display.cell_setCell]
      by_cases hqr : q = r
      · subst hqr
        rw [if_pos rfl, List.count_cons_self]
        by_cases hodd : rest.count q % 2 = 1
        · rw [if_pos hodd, if_neg (by omega), BitVec.xor_assoc, BitVec.xor_self, BitVec.xor_zero]
        · rw [if_neg hodd, if_pos (by omega)]
      · have hne : pixelIndex p r.1 r.2 ≠ pixelIndex p q.1 q.2 := fun he => by
          obtain ⟨e1, e2⟩ := pixelIndex_inj hr.1 hx he
          exact hqr (Prod.ext e1.symm e2.symm)
        rw [if_neg hne, List.count_cons_of_ne hqr]
    · rw [h2 k (fun r hr => hk r (by simp [hr])), Display.cell_setCell, if_neg (hk q (by simp)).symm]

/-- When toggling collides: a listed pixel was lit before, or was unlit and is listed again (R185, R187). -/
theorem togglePixels_collision {p : Params} (ps : List (Nat × Nat)) : (∀ q ∈ ps, InGrid p q) →
    ∀ (d : Display) (c : Bool) (d' : Display) (c' : Bool), togglePixels p ps d c = .ok (d', c') →
      (c' = true ↔ c = true ∨ ∃ q, (1 ≤ ps.count q ∧ d.cell (pixelIndex p q.1 q.2) = 1) ∨
        (2 ≤ ps.count q ∧ d.cell (pixelIndex p q.1 q.2) = 0)) := by
  induction ps with
  | nil => intro _ d c d' c' h; cases h; simp
  | cons q rest ih =>
    intro hp d c d' c' h
    obtain ⟨hx, hy⟩ := hp q (by simp)
    have hrest : ∀ r ∈ rest, InGrid p r := fun r hr => hp r (by simp [hr])
    rw [togglePixels_cons rest d c hx hy] at h
    rw [ih hrest _ _ _ _ h, Bool.or_eq_true, beq_iff_eq, or_assoc]
    refine or_congr_right ?_
    have hcell : ∀ r, r ≠ q → 1 ≤ rest.count r →
        (d.setCell (pixelIndex p q.1 q.2) (d.cell (pixelIndex p q.1 q.2) ^^^ 1)).cell (pixelIndex p r.1 r.2) =
          d.cell (pixelIndex p r.1 r.2) := fun r hr hc => by
      have hr' := hrest r (List.count_pos_iff.mp hc)
      rw [Display.cell_setCell, if_neg]
      intro he
      obtain ⟨e1, e2⟩ := pixelIndex_inj hr'.1 hx he
      exact hr (Prod.ext e1 e2)
    have hcount : ∀ r, r ≠ q → (q :: rest).count r = rest.count r := fun r hr => by
      rw [List.count_cons_of_ne (Ne.symm hr)]
    have hq : (q :: rest).count q = rest.count q + 1 := List.count_cons_self
    have hself : (d.setCell (pixelIndex p q.1 q.2) (d.cell (pixelIndex p q.1 q.2) ^^^ 1)).cell (pixelIndex p q.1 q.2) =
        d.cell (pixelIndex p q.1 q.2) ^^^ 1 := by rw [Display.cell_setCell, if_pos rfl]
    have hflip : ∀ b : Byte, (b ^^^ 1 = 1 ↔ b = 0) ∧ (b ^^^ 1 = 0 ↔ b = 1) := by decide
    constructor
    · rintro (h1 | ⟨r, h1⟩)
      · exact ⟨q, .inl ⟨by omega, h1⟩⟩
      · by_cases hr : r = q
        · subst hr
          rw [hself, (hflip _).1, (hflip _).2] at h1
          rcases h1 with ⟨h1, h2⟩ | ⟨h1, h2⟩
          · exact ⟨r, .inr ⟨by omega, h2⟩⟩
          · exact ⟨r, .inl ⟨by omega, h2⟩⟩
        · refine ⟨r, ?_⟩
          rw [hcount r hr]
          rcases h1 with ⟨h1, h2⟩ | ⟨h1, h2⟩
          · exact .inl ⟨h1, hcell r hr h1 ▸ h2⟩
          · exact .inr ⟨h1, hcell r hr (by omega) ▸ h2⟩
    · rintro ⟨r, h1⟩
      by_cases hr : r = q
      · subst hr
        rw [hq] at h1
        rcases h1 with ⟨h1, h2⟩ | ⟨h1, h2⟩
        · exact .inl h2
        · exact .inr ⟨r, .inl ⟨by omega, by rw [hself, (hflip _).1]; exact h2⟩⟩
      · rw [hcount r hr] at h1
        refine .inr ⟨r, ?_⟩
        rcases h1 with ⟨h1, h2⟩ | ⟨h1, h2⟩
        · exact .inl ⟨h1, (hcell r hr h1).trans h2⟩
        · exact .inr ⟨h1, (hcell r hr (by omega)).trans h2⟩

/-! ### Drawing -/

/-- A draw never raises `PixelOutOfBounds` (R182). -/
theorem drawSprite_ok {p : Params} (hp : p.ok) (x y : Nat) (sprite : List Byte) (d : Display) :
    ∃ d' c, drawSprite p x y sprite d = .ok (d', c) :=
  togglePixels_ok _ (fun _ hq => inGrid_spritePixels hp hq) d false

/-- `DXYN` inside memory ends `Ok`, with the drawn display and the collision in `VF` (R189). -/
theorem execDrw_inside (x y : Reg) (n : Fin 16) (s : State) (hp : s.params.ok)
    (h : s.i.toNat + n.val ≤ s.params.memSize) :
    ∃ d c, drawSprite s.params (s.reg x).toNat (s.reg y).toNat (s.readBlock s.i.toNat n.val) s.disp = .ok (d, c) ∧
      execDrw x y n s = .next (((s.setDisp d).setVF (flagOf c)).setReply .ok) := by
  obtain ⟨d, c, hd⟩ := drawSprite_ok hp (s.reg x).toNat (s.reg y).toNat (s.readBlock s.i.toNat n.val) s.disp
  refine ⟨d, c, hd, ?_⟩
  simp only [execDrw, dataBase, checkBlock_inside s _ h, hd, complete_eq]

/-- `DXYN` outside memory faults and leaves the state as it was (R189, R269). -/
theorem execDrw_outside (x y : Reg) (n : Fin 16) (s : State) (h : ¬ s.i.toNat + n.val ≤ s.params.memSize) :
    execDrw x y n s = .fault (.memoryOutOfBounds (s.i.toNat + n.val) s) := checkBlock_outside s _ h

/-- What `DXYN` does whatever the parameters: it faults outside memory, and inside it ends in a next state that differs in
the display and `VF` alone, or hands a pixel error to the host. -/
theorem execDrw_cases (x y : Reg) (n : Fin 16) (s : State) :
    (∃ m, execDrw x y n s = .fault (.memoryOutOfBounds m s)) ∨
    (∃ d c, execDrw x y n s = .next (((s.setDisp d).setVF (flagOf c)).setReply .ok)) ∨
    ∃ e, execDrw x y n s = .next (s.setReply (.error e)) := by
  by_cases h : s.i.toNat + n.val ≤ s.params.memSize
  · refine .inr ?_
    simp only [execDrw, dataBase, checkBlock_inside s _ h]
    cases hd : drawSprite s.params (s.reg x).toNat (s.reg y).toNat (s.readBlock s.i.toNat n.val) s.disp with
    | error e => exact .inr ⟨e, rfl⟩
    | ok r => exact .inl ⟨r.1, r.2, rfl⟩
  · exact .inl ⟨_, execDrw_outside x y n s h⟩

end Sys2Proof.Machine
end

