-- ==== Sys2Proof/Laws/Instr.lean ====
section
/-!
SUPPORT. What each meaning that branches answers, once per branch, so that nothing has to unfold it; and the scan of
`FX0A`.
-/

namespace Sys2Proof.Machine

theorem execRet_pop (s : State) (k : Nat) (hk : k < Config.stackDepth) (h : s.sp.val = k + 1) :
    execRet s = .next (((s.setStack ⟨k, by omega⟩ s.stack).setPc s.stack[k]).setReply .ok) := by
  simp only [execRet, h]
  rw [dif_neg (by omega)]
  simp [complete_eq]

theorem execRet_empty (s : State) (h : s.sp.val = 0) : execRet s = .fault (.stackUnderflow s) := dif_pos h

theorem execCall_push (nnn : Addr12) (s : State) (h : s.sp.val < Config.stackDepth) :
    execCall nnn s =
      .next (((s.setStack ⟨s.sp.val + 1, by omega⟩ (s.stack.set s.sp.val s.pc)).setPc (zextAddr nnn)).setReply .ok) :=
  dif_pos h

theorem execCall_full (nnn : Addr12) (s : State) (h : ¬ s.sp.val < Config.stackDepth) :
    execCall nnn s = .fault (.stackOverflow s) := dif_neg h

theorem execLdB_inside (x : Reg) (s : State) (h : dataBase s + 3 ≤ s.params.memSize) :
    execLdB x s = .next ((s.writeBlock (dataBase s) (bcdDigits (s.reg x))).setReply .ok) :=
  checkBlock_inside s _ h

theorem execLdB_outside (x : Reg) (s : State) (h : ¬ dataBase s + 3 ≤ s.params.memSize) :
    execLdB x s = .fault (.memoryOutOfBounds (dataBase s + 3) s) := checkBlock_outside s _ h

theorem execStRegs_inside (x : Reg) (s : State) (h : dataBase s + rangeCount x ≤ s.params.memSize) :
    execStRegs x s = .next ((s.writeBlock (dataBase s) (regRange s x)).setReply .ok) :=
  checkBlock_inside s _ h

theorem execStRegs_outside (x : Reg) (s : State) (h : ¬ dataBase s + rangeCount x ≤ s.params.memSize) :
    execStRegs x s = .fault (.memoryOutOfBounds (dataBase s + rangeCount x) s) := checkBlock_outside s _ h

theorem execLdRegs_inside (x : Reg) (s : State) (h : dataBase s + rangeCount x ≤ s.params.memSize) :
    execLdRegs x s = .next ((s.setRegs (loadRange s (dataBase s) (rangeCount x) s.v)).setReply .ok) :=
  checkBlock_inside s _ h

theorem execLdRegs_outside (x : Reg) (s : State) (h : ¬ dataBase s + rangeCount x ≤ s.params.memSize) :
    execLdRegs x s = .fault (.memoryOutOfBounds (dataBase s + rangeCount x) s) := checkBlock_outside s _ h

theorem execSkp_inside (x : Reg) (s : State) (h : (s.reg x).toNat < Config.numKeys) :
    execSkp x s = .next ((s.skipIf s.keys[(s.reg x).toNat]).setReply .ok) := keyGet_inside s _ h

theorem execSknp_inside (x : Reg) (s : State) (h : (s.reg x).toNat < Config.numKeys) :
    execSknp x s = .next ((s.skipIf (!s.keys[(s.reg x).toNat])).setReply .ok) := keyGet_inside s _ h

theorem execSkp_outside (x : Reg) (s : State) (h : ¬ (s.reg x).toNat < Config.numKeys) :
    execSkp x s = .next (s.setReply (.error (.keyIndexOutOfBounds (s.reg x).toNat))) := keyGet_outside s _ h

theorem execSknp_outside (x : Reg) (s : State) (h : ¬ (s.reg x).toNat < Config.numKeys) :
    execSknp x s = .next (s.setReply (.error (.keyIndexOutOfBounds (s.reg x).toNat))) := keyGet_outside s _ h

/-- The scan finds nothing exactly when every key is up. -/
theorem firstKeyDown_none (keys : Keys) (h : ∀ j (hj : j < Config.numKeys), keys[j] = false) :
    firstKeyDown keys = none := by
  refine List.findIdx?_eq_none_iff.mpr fun b hb => ?_
  obtain ⟨j, hj, rfl⟩ := List.getElem_of_mem hb
  simpa using h j (by simpa using hj)

/-- The scan finds the lowest key that is down. -/
theorem firstKeyDown_some (keys : Keys) (k : Nat) (hk : k < Config.numKeys) (hd : keys[k] = true)
    (hlow : ∀ j (hj : j < k), keys[j] = false) : firstKeyDown keys = some k := by
  refine List.findIdx?_eq_some_iff_getElem.mpr ⟨by simpa using hk, by simpa using hd, fun j hj => ?_⟩
  simpa using hlow j hj

theorem execLdVxK_wait (x : Reg) (s : State) (h : firstKeyDown s.keys = none) :
    execLdVxK x s = .next ((s.setPc (s.pc - 2)).setReply .ok) := by
  simp only [execLdVxK, h, complete_eq]

theorem execLdVxK_key (x : Reg) (s : State) (k : Nat) (h : firstKeyDown s.keys = some k) :
    execLdVxK x s = .next (((s.setReg x (BitVec.ofNat 8 k)).setPc s.pc).setReply .ok) := by
  simp only [execLdVxK, h, complete_eq, State.setPc_pc, BitVec.sub_add_cancel]
  rfl

end Sys2Proof.Machine
end

