-- ==== Sys2Proof/Laws/Draw.lean ====
section
/-!
SUPPORT. What `DXYN` leaves, in the terms the statements use: how many set bits of the sprite lie on a pixel.
-/

namespace Sys2Proof.Machine

/-- A draw lists a pixel once for each set sprite bit that lies on it. -/
theorem coverCount_eq (s : State) (x y : Reg) (n px py : Nat) : coverCount s x y n px py =
    (spritePixels s.params (s.reg x).toNat (s.reg y).toNat (s.readBlock s.i.toNat n)).count (px, py) := by
  rw [count_spritePixels, State.length_readBlock, coverCount]
  refine List.countP_congr fun rc hrc => ?_
  obtain ⟨r, hr, hc⟩ := List.mem_flatMap.mp hrc
  obtain ⟨c, -, rfl⟩ := List.mem_map.mp hc
  rw [State.getD_readBlock s _ _ _ (List.mem_range.mp hr)]
  simp only [BitCovers, Bool.and_eq_true, beq_iff_eq, Prod.mk.injEq, and_assoc]
  constructor <;> rintro ⟨h1, h2, h3⟩ <;> exact ⟨h1, h2.symm, h3.symm⟩

/-- `DXYN` inside memory: the display toggled by count, every cell of no listed pixel as it was, and the collision. -/
theorem execDrw_result (x y : Reg) (n : Fin 16) (s : State) (hp : s.params.ok)
    (h : s.i.toNat + n.val ≤ s.params.memSize) :
    ∃ d c, execDrw x y n s = .next (((s.setDisp d).setVF (flagOf c)).setReply .ok) ∧
      (∀ px py, InGrid s.params (px, py) → d.cell (pixelIndex s.params px py) =
        if coverCount s x y n.val px py % 2 = 1 then s.disp.cell (pixelIndex s.params px py) ^^^ 1
        else s.disp.cell (pixelIndex s.params px py)) ∧
      (∀ k, (∀ px py, InGrid s.params (px, py) → pixelIndex s.params px py ≠ k) → d.cell k = s.disp.cell k) ∧
      (c = true ↔ ∃ px py, (1 ≤ coverCount s x y n.val px py ∧ s.disp.cell (pixelIndex s.params px py) = 1) ∨
        (2 ≤ coverCount s x y n.val px py ∧ s.disp.cell (pixelIndex s.params px py) = 0)) := by
  obtain ⟨d, c, hd, he⟩ := execDrw_inside x y n s hp h
  have hin : ∀ q ∈ spritePixels s.params (s.reg x).toNat (s.reg y).toNat (s.readBlock s.i.toNat n.val),
      InGrid s.params q := fun _ hq => inGrid_spritePixels hp hq
  obtain ⟨h1, h2⟩ := togglePixels_cell _ hin s.disp false d c hd
  have h3 := togglePixels_collision _ hin s.disp false d c hd
  refine ⟨d, c, he, fun px py hg => ?_, fun k hk => h2 k fun q hq => hk q.1 q.2 (hin q hq), ?_⟩
  · rw [coverCount_eq]; exact h1 (px, py) hg
  · rw [h3]
    simp only [Bool.false_eq_true, false_or, coverCount_eq, Prod.exists]

end Sys2Proof.Machine
end

