-- ==== Sys2Proof/Laws/PerInstr.lean ====
section
/-!
SUPPORT. One law of every instruction as syntax: its encoding is a word of its own row of the opcode map
(30_encoding.md R85).
-/

namespace Sys2Proof.Laws

/-- The word of the instruction matches the row of the opcode map that bears its mnemonic. -/
def EncodingRow.Statement (i : Instr) : Prop :=
  ∃ r ∈ opcodeMap, r.mnemonic = i.mnemonic ∧ r.matchesWord (encode i) = true

/-! ### What a mask leaves of a word of each format -/

theorem formatA_mask (f : BitVec 4) (nnn : Addr12) : formatA f nnn &&& 0xF000 = formatA f 0 :=
  (BitVec.and_append (x₁ := f) (x₂ := 15#4) (y₁ := nnn) (y₂ := 0#12)).trans
    (by rw [and_15, BitVec.and_zero]; rfl)

theorem formatXI_maskF (f : BitVec 4) (x : Reg) (nn : Byte) : formatXI f x nn &&& 0xF000 = formatXI f 0 0 :=
  (BitVec.and_append (x₁ := f ++ regBits x) (x₂ := 15#4 ++ 0#4) (y₁ := nn) (y₂ := 0#8)).trans
    (by rw [BitVec.and_append, and_15, BitVec.and_zero, BitVec.and_zero]; rfl)

theorem formatXI_maskFNN (f : BitVec 4) (x : Reg) (nn : Byte) : formatXI f x nn &&& 0xF0FF = formatXI f 0 nn :=
  (BitVec.and_append (x₁ := f ++ regBits x) (x₂ := 15#4 ++ 0#4) (y₁ := nn) (y₂ := 255#8)).trans
    (by rw [BitVec.and_append, and_15, BitVec.and_zero, and_255]; rfl)

theorem formatXYN_maskF (f : BitVec 4) (x y : Reg) (n : BitVec 4) :
    formatXYN f x y n &&& 0xF000 = formatXYN f 0 0 0 :=
  (BitVec.and_append (x₁ := f ++ regBits x ++ regBits y) (x₂ := 15#4 ++ 0#4 ++ 0#4) (y₁ := n) (y₂ := 0#4)).trans
    (by rw [BitVec.and_append, BitVec.and_append, and_15, BitVec.and_zero, BitVec.and_zero,
      BitVec.and_zero]; rfl)

theorem formatXYN_maskFN (f : BitVec 4) (x y : Reg) (n : BitVec 4) :
    formatXYN f x y n &&& 0xF00F = formatXYN f 0 0 n :=
  (BitVec.and_append (x₁ := f ++ regBits x ++ regBits y) (x₂ := 15#4 ++ 0#4 ++ 0#4) (y₁ := n) (y₂ := 15#4)).trans
    (by rw [BitVec.and_append, BitVec.and_append, and_15, BitVec.and_zero, BitVec.and_zero, and_15]; rfl)

/-- A row whose mask and pattern fit the word is the instruction's row. -/
theorem encodingRow_of_mask {i : Instr} (r : OpcodeRow) (hr : r ∈ opcodeMap) (hm : r.mnemonic = i.mnemonic)
    (h : encode i &&& r.mask = r.pattern) : EncodingRow.Statement i :=
  ⟨r, hr, hm, by simp only [OpcodeRow.matchesWord, h, beq_self_eq_true]⟩

/-! ### One lemma per constructor -/

theorem EncodingRow.cls : EncodingRow.Statement .cls :=
  encodingRow_of_mask ⟨"CLS", 0xF0FF, 0x00E0⟩ (by decide) rfl (rfl)

theorem EncodingRow.ret : EncodingRow.Statement .ret :=
  encodingRow_of_mask ⟨"RET", 0xF0FF, 0x00EE⟩ (by decide) rfl (rfl)

theorem EncodingRow.jp (nnn : Addr12) : EncodingRow.Statement (.jp nnn) :=
  encodingRow_of_mask ⟨"JP_nnn", 0xF000, 0x1000⟩ (by decide) rfl ((formatA_mask _ _).trans rfl)

theorem EncodingRow.call (nnn : Addr12) : EncodingRow.Statement (.call nnn) :=
  encodingRow_of_mask ⟨"CALL_nnn", 0xF000, 0x2000⟩ (by decide) rfl ((formatA_mask _ _).trans rfl)

theorem EncodingRow.seImm (x : Reg) (nn : Byte) : EncodingRow.Statement (.seImm x nn) :=
  encodingRow_of_mask ⟨"SE_Vx__nn", 0xF000, 0x3000⟩ (by decide) rfl ((formatXI_maskF _ _ _).trans rfl)

theorem EncodingRow.sneImm (x : Reg) (nn : Byte) : EncodingRow.Statement (.sneImm x nn) :=
  encodingRow_of_mask ⟨"SNE_Vx__nn", 0xF000, 0x4000⟩ (by decide) rfl ((formatXI_maskF _ _ _).trans rfl)

theorem EncodingRow.seReg (x : Reg) (y : Reg) : EncodingRow.Statement (.seReg x y) :=
  encodingRow_of_mask ⟨"SE_Vx__Vy", 0xF000, 0x5000⟩ (by decide) rfl ((formatXYN_maskF _ _ _ _).trans rfl)

theorem EncodingRow.ldImm (x : Reg) (nn : Byte) : EncodingRow.Statement (.ldImm x nn) :=
  encodingRow_of_mask ⟨"LD_Vx__nn", 0xF000, 0x6000⟩ (by decide) rfl ((formatXI_maskF _ _ _).trans rfl)

theorem EncodingRow.addImm (x : Reg) (nn : Byte) : EncodingRow.Statement (.addImm x nn) :=
  encodingRow_of_mask ⟨"ADD_Vx__nn", 0xF000, 0x7000⟩ (by decide) rfl ((formatXI_maskF _ _ _).trans rfl)

theorem EncodingRow.ldReg (x : Reg) (y : Reg) : EncodingRow.Statement (.ldReg x y) :=
  encodingRow_of_mask ⟨"LD_Vx__Vy", 0xF00F, 0x8000⟩ (by decide) rfl ((formatXYN_maskFN _ _ _ _).trans rfl)

theorem EncodingRow.orReg (x : Reg) (y : Reg) : EncodingRow.Statement (.orReg x y) :=
  encodingRow_of_mask ⟨"OR_Vx__Vy", 0xF00F, 0x8001⟩ (by decide) rfl ((formatXYN_maskFN _ _ _ _).trans rfl)

theorem EncodingRow.andReg (x : Reg) (y : Reg) : EncodingRow.Statement (.andReg x y) :=
  encodingRow_of_mask ⟨"AND_Vx__Vy", 0xF00F, 0x8002⟩ (by decide) rfl ((formatXYN_maskFN _ _ _ _).trans rfl)

theorem EncodingRow.xorReg (x : Reg) (y : Reg) : EncodingRow.Statement (.xorReg x y) :=
  encodingRow_of_mask ⟨"XOR_Vx__Vy", 0xF00F, 0x8003⟩ (by decide) rfl ((formatXYN_maskFN _ _ _ _).trans rfl)

theorem EncodingRow.addReg (x : Reg) (y : Reg) : EncodingRow.Statement (.addReg x y) :=
  encodingRow_of_mask ⟨"ADD_Vx__Vy", 0xF00F, 0x8004⟩ (by decide) rfl ((formatXYN_maskFN _ _ _ _).trans rfl)

theorem EncodingRow.sub (x : Reg) (y : Reg) : EncodingRow.Statement (.sub x y) :=
  encodingRow_of_mask ⟨"SUB_Vx__Vy", 0xF00F, 0x8005⟩ (by decide) rfl ((formatXYN_maskFN _ _ _ _).trans rfl)

theorem EncodingRow.shr (x : Reg) : EncodingRow.Statement (.shr x) :=
  encodingRow_of_mask ⟨"SHR_Vx", 0xF00F, 0x8006⟩ (by decide) rfl ((formatXYN_maskFN _ _ _ _).trans rfl)

theorem EncodingRow.subn (x : Reg) (y : Reg) : EncodingRow.Statement (.subn x y) :=
  encodingRow_of_mask ⟨"SUBN_Vx__Vy", 0xF00F, 0x8007⟩ (by decide) rfl ((formatXYN_maskFN _ _ _ _).trans rfl)

theorem EncodingRow.shl (x : Reg) : EncodingRow.Statement (.shl x) :=
  encodingRow_of_mask ⟨"SHL_Vx", 0xF00F, 0x800E⟩ (by decide) rfl ((formatXYN_maskFN _ _ _ _).trans rfl)

theorem EncodingRow.sneReg (x : Reg) (y : Reg) : EncodingRow.Statement (.sneReg x y) :=
  encodingRow_of_mask ⟨"SNE_Vx__Vy", 0xF000, 0x9000⟩ (by decide) rfl ((formatXYN_maskF _ _ _ _).trans rfl)

theorem EncodingRow.ldI (nnn : Addr12) : EncodingRow.Statement (.ldI nnn) :=
  encodingRow_of_mask ⟨"LD_I__nnn", 0xF000, 0xA000⟩ (by decide) rfl ((formatA_mask _ _).trans rfl)

theorem EncodingRow.jpV0 (nnn : Addr12) : EncodingRow.Statement (.jpV0 nnn) :=
  encodingRow_of_mask ⟨"JP_V0__nnn", 0xF000, 0xB000⟩ (by decide) rfl ((formatA_mask _ _).trans rfl)

theorem EncodingRow.rnd (x : Reg) (nn : Byte) : EncodingRow.Statement (.rnd x nn) :=
  encodingRow_of_mask ⟨"RND_Vx__nn", 0xF000, 0xC000⟩ (by decide) rfl ((formatXI_maskF _ _ _).trans rfl)

theorem EncodingRow.drw (x : Reg) (y : Reg) (n : Fin 16) : EncodingRow.Statement (.drw x y n) :=
  encodingRow_of_mask ⟨"DRW_Vx__Vy__n", 0xF000, 0xD000⟩ (by decide) rfl ((formatXYN_maskF _ _ _ _).trans rfl)

theorem EncodingRow.skp (x : Reg) : EncodingRow.Statement (.skp x) :=
  encodingRow_of_mask ⟨"SKP_Vx", 0xF0FF, 0xE09E⟩ (by decide) rfl ((formatXI_maskFNN _ _ _).trans rfl)

theorem EncodingRow.sknp (x : Reg) : EncodingRow.Statement (.sknp x) :=
  encodingRow_of_mask ⟨"SKNP_Vx", 0xF0FF, 0xE0A1⟩ (by decide) rfl ((formatXI_maskFNN _ _ _).trans rfl)

theorem EncodingRow.ldVxDt (x : Reg) : EncodingRow.Statement (.ldVxDt x) :=
  encodingRow_of_mask ⟨"LD_Vx__DT", 0xF0FF, 0xF007⟩ (by decide) rfl ((formatXI_maskFNN _ _ _).trans rfl)

theorem EncodingRow.ldVxK (x : Reg) : EncodingRow.Statement (.ldVxK x) :=
  encodingRow_of_mask ⟨"LD_Vx__K", 0xF0FF, 0xF00A⟩ (by decide) rfl ((formatXI_maskFNN _ _ _).trans rfl)

theorem EncodingRow.ldDtVx (x : Reg) : EncodingRow.Statement (.ldDtVx x) :=
  encodingRow_of_mask ⟨"LD_DT__Vx", 0xF0FF, 0xF015⟩ (by decide) rfl ((formatXI_maskFNN _ _ _).trans rfl)

theorem EncodingRow.ldStVx (x : Reg) : EncodingRow.Statement (.ldStVx x) :=
  encodingRow_of_mask ⟨"LD_ST__Vx", 0xF0FF, 0xF018⟩ (by decide) rfl ((formatXI_maskFNN _ _ _).trans rfl)

theorem EncodingRow.addI (x : Reg) : EncodingRow.Statement (.addI x) :=
  encodingRow_of_mask ⟨"ADD_I__Vx", 0xF0FF, 0xF01E⟩ (by decide) rfl ((formatXI_maskFNN _ _ _).trans rfl)

theorem EncodingRow.ldF (x : Reg) : EncodingRow.Statement (.ldF x) :=
  encodingRow_of_mask ⟨"LD_F__Vx", 0xF0FF, 0xF029⟩ (by decide) rfl ((formatXI_maskFNN _ _ _).trans rfl)

theorem EncodingRow.ldB (x : Reg) : EncodingRow.Statement (.ldB x) :=
  encodingRow_of_mask ⟨"LD_B__Vx", 0xF0FF, 0xF033⟩ (by decide) rfl ((formatXI_maskFNN _ _ _).trans rfl)

theorem EncodingRow.stRegs (x : Reg) : EncodingRow.Statement (.stRegs x) :=
  encodingRow_of_mask ⟨"LD__I___Vx", 0xF0FF, 0xF055⟩ (by decide) rfl ((formatXI_maskFNN _ _ _).trans rfl)

theorem EncodingRow.ldRegs (x : Reg) : EncodingRow.Statement (.ldRegs x) :=
  encodingRow_of_mask ⟨"LD_Vx___I", 0xF0FF, 0xF065⟩ (by decide) rfl ((formatXI_maskFNN _ _ _).trans rfl)

end Sys2Proof.Laws
end

