-- ==== Sys2Proof/Laws/Step.lean ====
section
/-!
SUPPORT. What a cycle, a transaction and a step answer, once per branch.
-/

namespace Sys2Proof.Machine

/-- A word is inside what the parameters let the model run: `STRICT_DECODE` is false, or the spelling is canonical. -/
theorem outsideStrictDecode_false (p : Params) (op : Word) (i : Instr) (h : p.strictDecode = false ∨ encode i = op) :
    outsideStrictDecode p op i = false := by
  rcases h with h | h <;> simp [outsideStrictDecode, h]

theorem outsideStrictDecode_true (p : Params) (op : Word) (i : Instr) :
    outsideStrictDecode p op i = true ↔ p.strictDecode = true ∧ encode i ≠ op := by
  simp [outsideStrictDecode]

theorem executeCycle_decoded (s : State) (i : Instr) (h : s.pc.toNat + 2 ≤ s.params.memSize)
    (hd : decode (fetchWord s) = .ok i) (hs : s.params.strictDecode = false ∨ encode i = fetchWord s) :
    executeCycle s = exec i s.advance := by
  simp only [executeCycle, checkBlock_inside s _ h, hd, outsideStrictDecode_false _ _ _ hs, Bool.false_eq_true, if_false]

theorem executeCycle_strict (s : State) (i : Instr) (h : s.pc.toNat + 2 ≤ s.params.memSize)
    (hd : decode (fetchWord s) = .ok i) (hs : s.params.strictDecode = true) (hc : encode i ≠ fetchWord s) :
    executeCycle s = .refused (.nonCanonicalWord (fetchWord s)) := by
  simp only [executeCycle, checkBlock_inside s _ h, hd, (outsideStrictDecode_true _ _ _).mpr ⟨hs, hc⟩, if_true]

theorem executeCycle_rejected (s : State) (r : DecodeReject) (h : s.pc.toNat + 2 ≤ s.params.memSize)
    (hd : decode (fetchWord s) = .error r) :
    executeCycle s = .next (s.advance.setReply (.error (.opcodeNotFound (fieldNN (fetchWord s))))) := by
  simp only [executeCycle, checkBlock_inside s _ h, hd, raise_error]

theorem executeCycle_outside (s : State) (h : ¬ s.pc.toNat + 2 ≤ s.params.memSize) :
    executeCycle s = .fault (.memoryOutOfBounds (s.pc.toNat + 2) s) := checkBlock_outside s _ h

/-- A cycle faults on the fetch, hands an illegal word's error to the host, runs the decoded instruction, or refuses a
non-canonical spelling under `STRICT_DECODE`. -/
theorem executeCycle_cases (s : State) :
    (s.params.memSize < s.pc.toNat + 2 ∧ executeCycle s = .fault (.memoryOutOfBounds (s.pc.toNat + 2) s)) ∨
    (s.pc.toNat + 2 ≤ s.params.memSize ∧ ∃ r, decode (fetchWord s) = .error r ∧
      executeCycle s = .next (s.advance.setReply (.error (.opcodeNotFound (fieldNN (fetchWord s)))))) ∨
    (s.pc.toNat + 2 ≤ s.params.memSize ∧ ∃ i, decode (fetchWord s) = .ok i ∧ executeCycle s = exec i s.advance) ∨
    (s.pc.toNat + 2 ≤ s.params.memSize ∧ s.params.strictDecode = true ∧
      ∃ i, decode (fetchWord s) = .ok i ∧ encode i ≠ fetchWord s ∧
        executeCycle s = .refused (.nonCanonicalWord (fetchWord s))) := by
  by_cases h : s.pc.toNat + 2 ≤ s.params.memSize
  · cases hd : decode (fetchWord s) with
    | error r => exact .inr (.inl ⟨h, r, rfl, executeCycle_rejected s r h hd⟩)
    | ok i =>
      cases hs : outsideStrictDecode s.params (fetchWord s) i with
      | false =>
        refine .inr (.inr (.inl ⟨h, i, rfl, ?_⟩))
        simp only [executeCycle, checkBlock_inside s _ h, hd, hs, Bool.false_eq_true, if_false]
      | true =>
        obtain ⟨h1, h2⟩ := (outsideStrictDecode_true _ _ _).mp hs
        exact .inr (.inr (.inr ⟨h, h1, i, rfl, h2, executeCycle_strict s i h hd h1 h2⟩))
  · exact .inl ⟨by omega, executeCycle_outside s h⟩

theorem loadRom_fits (image : List Byte) (s : State) (h : image.length ≤ s.params.memSize - s.params.programStart) :
    loadRom image s = .next (((resetEngine s).writeBlock s.params.programStart image).setReply .ok) := by
  simp only [loadRom, Params.imageFits, decide_eq_true h, if_true, complete_eq]

theorem loadRom_tooLarge (image : List Byte) (s : State)
    (h : ¬ image.length ≤ s.params.memSize - s.params.programStart) :
    loadRom image s = .next (s.setReply (.error (.romTooLarge image.length))) := by
  simp only [loadRom, Params.imageFits, decide_eq_false h, raise_error, Bool.false_eq_true, if_false]

theorem keyEvent_inside (k : Nat) (down : Bool) (s : State) (h : k < Config.numKeys) :
    keyEvent k down s = .next ((s.setKeys (s.keys.setIfInBounds k down)).setReply .ok) := by
  simp only [keyEvent, keyIndexOk, decide_eq_true h, if_true, complete_eq]

theorem keyEvent_outside (k : Nat) (down : Bool) (s : State) (h : ¬ k < Config.numKeys) :
    keyEvent k down s = .next (s.setReply (.error (.keyIndexOutOfBounds k))) := by
  simp only [keyEvent, keyIndexOk, decide_eq_false h, raise_error, Bool.false_eq_true, if_false]

/-- One tick, in plain arithmetic. -/
theorem toNat_tick (b : Byte) : (tick b).toNat = b.toNat - 1 := by
  revert b; decide +kernel

/-! ### The host's plan -/

theorem HostPlan.next_listed {h : HostPlan} {t : Transaction} {rest : List Transaction} (hl : h.listed = t :: rest) :
    h.next = (t, { h with listed := rest }) := by
  simp only [HostPlan.next, hl]

theorem HostPlan.next_loop {h : HostPlan} {t : Transaction} {others : List Transaction} (hl : h.listed = [])
    (ha : h.after = .loop t others) : h.next = (t, { h with listed := others }) := by
  simp only [HostPlan.next, hl, ha]

theorem HostPlan.next_free {h : HostPlan} (hl : h.listed = []) (ha : h.after = .free) :
    h.next = (Config.hostChoice h.turns, { h with turns := h.turns + 1 }) := by
  simp only [HostPlan.next, hl, ha]

@[simp] theorem HostPlan.next_withCycleFirst (h : HostPlan) : h.withCycleFirst.next = (.executeCycle, h) := by
  unfold HostPlan.withCycleFirst
  split
  · assumption
  · rfl

/-- A step is the next transaction of the plan, on a state that differs in the plan alone. -/
theorem step_eq {s : State} {t : Transaction} {h : HostPlan} (hn : s.host.next = (t, h)) :
    step s = transact t (s.setHost h) := by
  simp only [step, hn]

@[simp] theorem State.setHost_setHost (s : State) (g h : HostPlan) : (s.setHost g).setHost h = s.setHost h := rfl

/-- The place where a word is stored for the next fetch has room for it, if `PC` or the program origin has. -/
theorem fetchPlace_fits (s : State) (hp : s.params.ok)
    (h : s.pc.toNat + 2 ≤ s.params.memSize ∨ s.params.programStart + 2 ≤ s.params.memSize) :
    (fetchPlace s).toNat + 2 ≤ s.params.memSize := by
  obtain ⟨-, -, hm, -⟩ := hp
  unfold fetchPlace
  split
  · assumption
  · rw [BitVec.toNat_ofNat]; omega

end Sys2Proof.Machine
end

