-- ==== Sys2Proof/Tests/Slice0.lean ====
section
/-!
SUPPORT. The model's own tests: ill-formed words and arguments, one word per constructor written out from the spec's
encodings, one step per vector of 95_test_vectors.md, and for every statement that has hypotheses a witness that meets
them. No expected value here comes from the model.
-/

open Sys2Proof Sys2Proof.Machine

namespace Sys2Proof.Tests

/-! ## Ill-formed terms -/

/-- V-X1, V-X2, V-X7: family 0 compares the whole low byte. -/
theorem test_illformed_family0 : [0x0000, 0x0123, 0x00E1, 0x00FE, 0x00EF].map legalWord = [false, false, false, false, false] := by
  decide

/-- V-X3 and the neighbours of R92's list. -/
theorem test_illformed_family8 : [0x8AB9, 0x8008, 0x800D, 0x800F].map legalWord = [false, false, false, false] := by decide

/-- V-X4, V-X5, V-X6. -/
theorem test_illformed_families_EF : [0xE29F, 0xE0A0, 0xF2FF, 0xF000].map legalWord = [false, false, false, false] := by
  decide

/-- V-X8, V-C8, V-C17: legal words, the non-canonical ones among them. -/
theorem test_wellformed_words : [0xF055, 0xF155, 0x0FEE, 0x5127, 0x9121, 0x8126].map legalWord =
    [true, true, true, true, true, true] := by decide

/-- E6: 3584 bytes fit, 3585 do not. -/
theorem test_illformed_image :
    Params.defaults.imageFits (List.replicate 3584 0xFF) = true ∧
    Params.defaults.imageFits (List.replicate 3585 0xFF) = false := by
  simp only [Params.imageFits, List.length_replicate]
  decide

/-- R246: 16 is no key. -/
theorem test_illformed_key : keyIndexOk 15 = true ∧ keyIndexOk 16 = false := by decide

/-- R6: the defaults satisfy the constraints. -/
theorem test_defaults_ok : Params.defaults.ok := by decide

/-- R6: one choice against each constraint. -/
theorem test_illformed_params :
    ([{ Params.defaults with programStart := 0x4F }, { Params.defaults with memSize := 0x1FF },
      { Params.defaults with memSize := 65537 }, { Params.defaults with displayWidth := 4 }] ++
     [{ Params.defaults with displayHeight := 0 }, { Params.defaults with displayWidth := 48 },
      { Params.defaults with displayHeight := 24 }, { Params.defaults with font := [0xF0] }]).all
      (fun p => !decide p.ok) = true := by decide

/-- R80: one byte is no instruction, and bytes after the two are left. -/
theorem test_decode_bytes : decodeBytes [0x61] = .error .truncated ∧
    decodeBytes [0x61, 0x32, 0x71] = .ok (.ldImm 1 0x32, [0x71]) ∧ decodeBytes [0x8A, 0xB9] = .error (.opcodeNotFound 0xB9) := by
  decide

/-! ## Decoding: bits 15-12 are F, 11-8 X, 7-4 Y, 3-0 N, 7-0 NN, 11-0 NNN (R81); selectors from R85 -/

theorem test_decode_cls : decode 0b0000000011100000 = .ok .cls := by decide
theorem test_decode_ret : decode 0b0000000011101110 = .ok .ret := by decide
theorem test_decode_jp : decode 0b0001101010111100 = .ok (.jp 0xABC) := by decide
theorem test_decode_call : decode 0b0010101010111100 = .ok (.call 0xABC) := by decide
theorem test_decode_seImm : decode 0b0011000101000010 = .ok (.seImm 1 0x42) := by decide
theorem test_decode_sneImm : decode 0b0100000101000010 = .ok (.sneImm 1 0x42) := by decide
theorem test_decode_seReg : decode 0b0101000100100000 = .ok (.seReg 1 2) := by decide
theorem test_decode_ldImm : decode 0b0110101001111111 = .ok (.ldImm 10 0x7F) := by decide
theorem test_decode_addImm : decode 0b0111000111111111 = .ok (.addImm 1 0xFF) := by decide
theorem test_decode_ldReg : decode 0b1000000100100000 = .ok (.ldReg 1 2) := by decide
theorem test_decode_orReg : decode 0b1000000100100001 = .ok (.orReg 1 2) := by decide
theorem test_decode_andReg : decode 0b1000000100100010 = .ok (.andReg 1 2) := by decide
theorem test_decode_xorReg : decode 0b1000000100100011 = .ok (.xorReg 1 2) := by decide
theorem test_decode_addReg : decode 0b1000000100100100 = .ok (.addReg 1 2) := by decide
theorem test_decode_sub : decode 0b1000000100100101 = .ok (.sub 1 2) := by decide
theorem test_decode_shr : decode 0b1000000100100110 = .ok (.shr 1) := by decide
theorem test_decode_subn : decode 0b1000000100100111 = .ok (.subn 1 2) := by decide
theorem test_decode_shl : decode 0b1000000100101110 = .ok (.shl 1) := by decide
theorem test_decode_sneReg : decode 0b1001000100100000 = .ok (.sneReg 1 2) := by decide
theorem test_decode_ldI : decode 0b1010111111111110 = .ok (.ldI 0xFFE) := by decide
theorem test_decode_jpV0 : decode 0b1011001100000001 = .ok (.jpV0 0x301) := by decide
theorem test_decode_rnd : decode 0b1100000100001111 = .ok (.rnd 1 0x0F) := by decide
theorem test_decode_drw : decode 0b1101000000010101 = .ok (.drw 0 1 5) := by decide
theorem test_decode_skp : decode 0b1110001010011110 = .ok (.skp 2) := by decide
theorem test_decode_sknp : decode 0b1110001010100001 = .ok (.sknp 2) := by decide
theorem test_decode_ldVxDt : decode 0b1111001100000111 = .ok (.ldVxDt 3) := by decide
theorem test_decode_ldVxK : decode 0b1111001100001010 = .ok (.ldVxK 3) := by decide
theorem test_decode_ldDtVx : decode 0b1111000100010101 = .ok (.ldDtVx 1) := by decide
theorem test_decode_ldStVx : decode 0b1111001000011000 = .ok (.ldStVx 2) := by decide
theorem test_decode_addI : decode 0b1111001000011110 = .ok (.addI 2) := by decide
theorem test_decode_ldF : decode 0b1111001100101001 = .ok (.ldF 3) := by decide
theorem test_decode_ldB : decode 0b1111010000110011 = .ok (.ldB 4) := by decide
theorem test_decode_stRegs : decode 0b1111000101010101 = .ok (.stRegs 1) := by decide
theorem test_decode_ldRegs : decode 0b1111001001100101 = .ok (.ldRegs 2) := by decide

/-! ## One step (95_test_vectors.md, part 2)

The start state is the reset state with the opcode at 0x200. -/

/-- The reset state with an opcode at 0x200. -/
def at200 (w : Nat) : State := State.reset.withFetchWord 16 w

/-- What is seen of the next state of a step, if there is one. -/
def seen {α : Type} (f : State → α) (s : State) : Option α :=
  match step s with
  | .next t => some (f t)
  | _ => none

/-- A fault of a step: its code and value, and the `PC` of the state it leaves. -/
def faulted (s : State) : Option (Nat × Nat × Word) :=
  match step s with
  | .fault (.memoryOutOfBounds n l) => some (5, n, l.pc)
  | .fault (.stackOverflow l) => some (6, 0, l.pc)
  | .fault (.stackUnderflow l) => some (7, 0, l.pc)
  | _ => none

/-- `PC`. -/
def pcOf (t : State) : Word := t.pc

/-- `PC`, a register, `VF`. -/
def pcXF (x : Reg) (t : State) : Word × Byte × Byte := (t.pc, t.reg x, t.reg 15)

/-- The state with bytes at an address. -/
def bytesAt (s : State) (a : Nat) (bs : List Byte) : State := s.writeBlock a bs

/-- The state with keys down. -/
def keysDown (s : State) (ks : List Nat) : State := s.setKeys (Vector.ofFn (fun k : Fin 16 => decide (k.val ∈ ks)))

/-- V-C1. -/
theorem test_jp : seen pcOf (at200 0x1ABC) = some 0x0ABC := by decide
/-- V-C3: the jump never fails, the next fetch does. -/
theorem test_jp_then_fault : faulted ((at200 0x1FFF).setPc 0x0FFF) = some (5, 0x1001, 0x0FFF) := by decide
/-- V-C4. -/
theorem test_call : seen (fun t => (t.pc, t.sp.val, t.stack[0])) (at200 0x2ABC) = some (0x0ABC, 1, 0x0202) := by decide
/-- V-C5. -/
theorem test_call_full : faulted ((at200 0x2ABC).setStack 16 (Vector.replicate _ 0)) = some (6, 0, 0x0202) := by decide
/-- V-C6. -/
theorem test_ret : seen (fun t => (t.pc, t.sp.val, t.stack[1]))
    ((at200 0x00EE).setStack 2 (((Vector.replicate _ 0).set 0 0x0ABC).set 1 0x0345)) = some (0x0345, 1, 0x0345) := by decide
/-- V-C7. -/
theorem test_ret_empty : faulted (at200 0x00EE) = some (7, 0, 0x0202) := by decide
/-- V-C9. -/
theorem test_jpV0 : seen pcOf ((at200 0xB300).setReg 0 0x10) = some 0x0310 := by decide
/-- V-C10. -/
theorem test_jpV0_past_12_bits : seen pcOf ((at200 0xBFFF).setReg 0 0xFF) = some 0x10FE := by decide
/-- V-C11. -/
theorem test_seImm_taken : seen pcOf ((at200 0x3142).setReg 1 0x42) = some 0x0204 := by decide
/-- V-C12. -/
theorem test_seImm_not_taken : seen pcOf ((at200 0x3142).setReg 1 0x41) = some 0x0202 := by decide
/-- V-C13. -/
theorem test_sneImm_not_taken : seen pcOf ((at200 0x4142).setReg 1 0x42) = some 0x0202 := by decide
/-- V-C14. -/
theorem test_sneImm_taken : seen pcOf ((at200 0x4142).setReg 1 0x41) = some 0x0204 := by decide
/-- V-C15. -/
theorem test_seReg_taken : seen pcOf (((at200 0x5120).setReg 1 7).setReg 2 7) = some 0x0204 := by decide
/-- V-C16. -/
theorem test_seReg_not_taken : seen pcOf (((at200 0x5120).setReg 1 7).setReg 2 8) = some 0x0202 := by decide
/-- V-C19. -/
theorem test_sneReg_taken : seen pcOf (((at200 0x9120).setReg 1 7).setReg 2 8) = some 0x0204 := by decide
/-- V-C21. -/
theorem test_sneReg_not_taken : seen pcOf (((at200 0x9121).setReg 1 7).setReg 2 7) = some 0x0202 := by decide

/-- V-A2. -/
theorem test_ldImm_vf : seen (pcXF 15) (at200 0x6F33) = some (0x0202, 0x33, 0x33) := by decide
/-- V-A3. -/
theorem test_addImm_clears_flag : seen (pcXF 1) ((at200 0x71FF).setReg 15 7) = some (0x0202, 0xFF, 0x00) := by decide
/-- V-A6. -/
theorem test_addImm_vf : seen (pcXF 15) ((at200 0x7F01).setReg 15 0xFF) = some (0x0202, 0x01, 0x01) := by decide
/-- V-A8. -/
theorem test_ldReg : seen (pcXF 1) ((((at200 0x8120).setReg 1 1).setReg 2 0x99).setReg 15 7) = some (0x0202, 0x99, 0x07) := by
  decide
/-- V-A10. -/
theorem test_orReg_vf : seen (pcXF 15) (((at200 0x8F21).setReg 15 0x0F).setReg 2 0xF0) = some (0x0202, 0xFF, 0xFF) := by
  decide
/-- V-A11. -/
theorem test_andReg : seen (pcXF 1) (((at200 0x8122).setReg 1 0xF0).setReg 2 0x3C) = some (0x0202, 0x30, 0x00) := by decide
/-- V-A12. -/
theorem test_xorReg : seen (pcXF 1) ((((at200 0x8123).setReg 1 0xF0).setReg 2 0x3C).setReg 15 9) =
    some (0x0202, 0xCC, 0x09) := by decide
/-- V-A19: `VF` is read before it is written. -/
theorem test_addReg_reads_vf : seen (pcXF 1) (((at200 0x81F4).setReg 1 1).setReg 15 0xFF) = some (0x0202, 0x00, 0x01) := by
  decide
/-- V-A20. -/
theorem test_addReg_vf_twice : seen (pcXF 15) ((at200 0x8FF4).setReg 15 0x80) = some (0x0202, 0x01, 0x01) := by decide
/-- E5. -/
theorem test_sub_borrow : seen (pcXF 0) (((at200 0x8015).setReg 0 0x05).setReg 1 0x0A) = some (0x0202, 0xFB, 0x00) := by
  decide
/-- V-A21: equal operands do not borrow. -/
theorem test_sub_equal : seen (pcXF 1) (((at200 0x8125).setReg 1 7).setReg 2 7) = some (0x0202, 0x00, 0x01) := by decide
/-- V-A37: Y is ignored. -/
theorem test_shr : seen (pcXF 1) (((at200 0x8126).setReg 1 4).setReg 2 0xFF) = some (0x0202, 0x02, 0x00) := by decide
/-- V-A38. -/
theorem test_shr_vf : seen (pcXF 15) ((at200 0x8F06).setReg 15 3) = some (0x0202, 0x01, 0x01) := by decide
/-- V-A31. -/
theorem test_subn_borrow : seen (pcXF 1) (((at200 0x8127).setReg 1 1).setReg 2 0) = some (0x0202, 0xFF, 0x00) := by decide
/-- V-A32. -/
theorem test_subn : seen (pcXF 1) (((at200 0x8127).setReg 1 5).setReg 2 0x0A) = some (0x0202, 0x05, 0x01) := by decide
/-- V-A25: the flag is 0x80. -/
theorem test_shl : seen (pcXF 1) ((at200 0x810E).setReg 1 0x81) = some (0x0202, 0x02, 0x80) := by decide
/-- V-A29. -/
theorem test_shl_vf : seen (pcXF 15) ((at200 0x8F0E).setReg 15 0x40) = some (0x0202, 0x00, 0x00) := by decide

/-- V-M1. -/
theorem test_ldI : seen (fun t => t.i) (at200 0xAFFF) = some 0x0FFF := by decide
/-- V-M3: wraps at 16 bits, `VF` not written. -/
theorem test_addI : seen (fun t => (t.i, t.reg 15)) ((((at200 0xF21E).setI 0xFFFF).setReg 2 2).setReg 15 7) =
    some (0x0001, 0x07) := by decide
/-- V-M5: no mask. -/
theorem test_ldF : seen (fun t => t.i) ((at200 0xF329).setReg 3 0xFF) = some 0x04FB := by decide
/-- V-M12: the last legal `I`. -/
theorem test_ldB : seen (fun t => (t.readBlock 0xFFD 3, t.i)) (((at200 0xF433).setI 0xFFD).setReg 4 0xFF) =
    some ([0x02, 0x05, 0x05], 0xFFD) := by decide
/-- V-M13. -/
theorem test_ldB_outside : faulted (((at200 0xF433).setI 0xFFE).setReg 4 0xFF) = some (5, 0x1001, 0x0202) := by decide
/-- V-M14: X inclusive, `I` unchanged. -/
theorem test_stRegs : seen (fun t => (t.readBlock 0x300 3, t.i))
    (((((at200 0xF155).setI 0x300).setReg 0 0xAA).setReg 1 0xBB).setReg 2 0xCC) = some ([0xAA, 0xBB, 0x00], 0x300) := by decide
/-- V-M17: a store into the instruction just executed. -/
theorem test_stRegs_code : seen (fun t => t.readBlock 0x200 2) (((at200 0xF055).setI 0x200).setReg 0 0x12) =
    some [0x12, 0x55] := by decide
/-- V-M18: glyph 0 of the default font. -/
theorem test_ldRegs : seen (fun t => (t.reg 0, t.reg 1, t.reg 2, t.reg 3, t.i)) (at200 0xF265) =
    some (0xF0, 0x90, 0x90, 0x00, 0x0000) := by decide
/-- V-M20. -/
theorem test_ldRegs_outside : faulted ((at200 0xF065).setI 0x1000) = some (5, 0x1001, 0x0202) := by decide

/-- The numbers of the lit cells: pixel (x, y) is cell 64 y + x. -/
def lit (t : State) : List Nat := t.disp.map (fun c => c.1)

/-- V-D1. -/
theorem test_drw : seen (fun t => (lit t, t.reg 15)) (at200 0xD015) =
    some ([0, 1, 2, 3, 64, 67, 128, 131, 192, 195, 256, 257, 258, 259], 0) := by decide +kernel
/-- V-D3, its second half: (0,0) was lit. -/
theorem test_drw_collides : seen (fun t => (lit t, t.reg 15))
    ((bytesAt ((at200 0xD011).setI 0x300) 0x300 [0xC0]).setDisp [(0, 1)]) = some ([1], 1) := by decide +kernel
/-- V-D4: each coordinate wraps by itself; row 31 starts at cell 1984. -/
theorem test_drw_wraps : seen (fun t => (lit t, t.reg 15))
    (bytesAt ((((at200 0xD011).setI 0x300).setReg 0 0xFE).setReg 1 0xFF) 0x300 [0xFF]) =
    some ([1984, 1985, 1986, 1987, 1988, 1989, 2046, 2047], 0) := by decide +kernel
/-- V-D6 and V-D7: height 0 is checked too. -/
theorem test_drw_height_zero :
    seen (fun t => (lit t, t.reg 15)) (((at200 0xD010).setI 0x1000).setReg 15 5) = some ([], 0) ∧
    faulted (((at200 0xD010).setI 0x1001).setReg 15 5) = some (5, 0x1001, 0x0202) := by decide
/-- V-D10. -/
theorem test_cls : seen (fun t => (lit t, t.reg 15)) (((at200 0x00E0).setDisp [(0, 1), (2047, 1)]).setReg 15 1) =
    some ([], 1) := by decide

/-- V-K1. -/
theorem test_skp : seen pcOf ((keysDown (at200 0xE29E) [5]).setReg 2 5) = some 0x0204 := by decide
/-- V-K5: no masking. -/
theorem test_skp_outside : seen (fun t => (t.pc, t.reply)) ((at200 0xE29E).setReg 2 0x10) =
    some (0x0202, .error (.keyIndexOutOfBounds 0x10)) := by decide
/-- V-K3. -/
theorem test_sknp : seen pcOf ((at200 0xE2A1).setReg 2 0x0F) = some 0x0204 := by decide
/-- V-K6. -/
theorem test_sknp_outside : seen (fun t => (t.pc, t.reply)) ((at200 0xE2A1).setReg 2 0xFF) =
    some (0x0202, .error (.keyIndexOutOfBounds 0xFF)) := by decide
/-- V-K7. -/
theorem test_ldVxK_waits : seen (pcXF 3) ((at200 0xF30A).setReg 3 0x55) = some (0x0200, 0x55, 0x00) := by decide
/-- V-K9. -/
theorem test_ldVxK_lowest : seen (pcXF 5) (keysDown (at200 0xF50A) [4, 9]) = some (0x0202, 0x04, 0x00) := by decide
/-- V-T4. -/
theorem test_ldVxDt : seen (fun t => (t.reg 3, t.dt)) ((at200 0xF307).setDt 2) = some (2, 2) := by decide
/-- V-T1. -/
theorem test_ldDtVx : seen (fun t => (t.dt, t.st)) ((at200 0xF115).setReg 1 3) = some (3, 0) := by decide
/-- V-T2. -/
theorem test_ldStVx : seen (fun t => (t.st, t.dt, t.st != 0)) ((at200 0xF218).setReg 2 1) = some (1, 0, true) := by decide

/-- V-R2: any draw. -/
theorem test_rnd_zero_mask : seen (pcXF 1) ((at200 0xC100).setReg 15 7) = some (0x0202, 0x00, 0x07) := by
  have h : seen (pcXF 1) ((at200 0xC100).setReg 15 7) =
      some (0x0202, drawnByte (((at200 0xC100).setReg 15 7).setPc 0x0202) &&& 0x00, 0x07) := rfl
  rw [h, show ∀ b : Byte, b &&& 0x00 = 0x00 from fun _ => BitVec.and_zero]
/-- V-R1: the draw under the mask, which is 0x07 for the draw 0xA7. -/
theorem test_rnd_mask : seen (fun t => t.reg 1) (at200 0xC10F) =
    some (drawnByte ((at200 0xC10F).setPc 0x0202) &&& 0x0F) ∧ (0xA7 : Byte) &&& 0x0F = 0x07 := ⟨rfl, by decide⟩

/-! ## Transactions -/

/-- The state with one transaction listed first. -/
def asked (t : Transaction) (s : State) : State := s.setHost { s.host with listed := [t] }

/-- R237: a host that only ever ticks runs no instruction, and is still one that only ever ticks. -/
theorem test_endless_ticks :
    seen (fun t => (t.dt, t.pc, t.host.next.1)) ((State.reset.setDt 3).setHost ⟨[], .loop .decrementTimer [], 0⟩) =
      some (2, 0x0200, .decrementTimer) := by decide
/-- R237: a loop of a cycle and a tick lists the tick after the cycle. -/
theorem test_loop_of_two :
    seen (fun t => (t.pc, t.host.next.1)) ((at200 0x1ABC).setHost ⟨[], .loop .executeCycle [.decrementTimer], 0⟩) =
      some (0x0ABC, .decrementTimer) := by decide
/-- R237: a host of which nothing is known. -/
theorem test_free_host (s : State) : step (s.setHost ⟨[], .free, 7⟩) =
    transact (Config.hostChoice 7) (s.setHost ⟨[], .free, 8⟩) := rfl

/-! ## Other parameters than the defaults (R6) -/

/-- The state with other parameters. -/
def withParams (p : Params) (s : State) : State := { s with params := p }

/-- The word is refused, by name. -/
def refusedWord (s : State) : Option Word :=
  match step s with
  | .refused (.nonCanonicalWord w) => some w
  | _ => none

/-- R93: with `STRICT_DECODE` a non-canonical word is refused and a canonical one runs. -/
theorem test_strict_decode :
    refusedWord (withParams { Params.defaults with strictDecode := true } (at200 0x5127)) = some 0x5127 ∧
    refusedWord (withParams { Params.defaults with strictDecode := true } (at200 0x8126)) = some 0x8126 ∧
    seen pcOf (withParams { Params.defaults with strictDecode := true } (at200 0x5120)) = some 0x0204 := by decide
/-- R55, R101: with 0x300 bytes of memory, the first place no word can be fetched from. -/
theorem test_small_memory :
    faulted (withParams { Params.defaults with memSize := 0x300 } (State.reset.setPc 0x2FF)) = some (5, 0x301, 0x2FF) := by
  decide
/-- R187: on a display one row high two equal rows meet: the second finds the pixel lit and puts it out. -/
theorem test_low_display : seen (fun t => (t.disp, t.reg 15))
    (bytesAt (withParams { Params.defaults with displayHeight := 1 } ((at200 0xD012).setI 0x300)) 0x300 [0x80, 0x80]) =
    some ([], 1) := by decide +kernel
/-- R58: another font is what memory holds after `construct`, and `load_rom` uses another origin. -/
theorem test_other_font_and_origin :
    seen (fun t => (t.read 1, t.read 5, t.pc)) (asked .construct (State.resetWith
      { Params.defaults with numGlyphs := 1, font := [1, 2, 3, 4, 5], programStart := 0x300 })) = some (2, 0, 0x0300) ∧
    seen (fun t => fetchWord t) (asked (.loadRom [0x61, 0x32]) (State.resetWith
      { Params.defaults with programStart := 0x300 })) = some 0x6132 := by decide

/-- V-X1, R242: the first cycle of an engine with no image. -/
theorem test_first_cycle_of_reset : seen (fun t => (t.pc, t.reply)) State.reset =
    some (0x0202, .error (.opcodeNotFound 0x00)) := by decide
/-- V-C24: the last two bytes of memory can be fetched. -/
theorem test_last_word : seen (fun t => (t.pc, t.reply)) (State.reset.setPc 0x0FFE) =
    some (0x1000, .error (.opcodeNotFound 0x00)) := by decide
/-- E6: an image that fits stands at 0x200, its first word is the next one fetched, and the font is back. -/
theorem test_loadRom : seen (fun t => (fetchWord t, t.read 0x203, t.read 0, t.reply))
    (asked (.loadRom [0x61, 0x32]) (bytesAt State.reset 0 [0x00, 0x11, 0x22, 0x33])) = some (0x6132, 0x00, 0xF0, .ok) := by
  decide
/-- V-K11. -/
theorem test_keyDown_outside : seen (fun t => t.reply) (asked (.keyDown 16) State.reset) =
    some (.error (.keyIndexOutOfBounds 0x10)) := by decide
/-- P4, step 3. -/
theorem test_keyDown : seen (fun t => (t.keys[7], t.keys[6])) (asked (.keyDown 7) State.reset) = some (true, false) := by
  decide
/-- R247. -/
theorem test_keyUp : seen (fun t => (t.keys[7], t.keys[6])) (asked (.keyUp 7) (keysDown State.reset [6, 7])) =
    some (false, true) := by decide
/-- V-T3. -/
theorem test_decrementTimer : seen (fun t => (t.dt, t.st)) (asked .decrementTimer ((State.reset.setDt 3).setSt 1)) =
    some (2, 0) := by decide
/-- V-T5: saturates. -/
theorem test_decrementTimer_saturates : seen (fun t => (t.dt, t.st)) (asked .decrementTimer State.reset) = some (0, 0) := by
  decide
/-- V-T2, V-T3: the sound is active while `ST` is not 0. -/
theorem test_isSoundActive : seen (fun t => t.reply) (asked .isSoundActive (State.reset.setSt 1)) = some (.soundActive true) ∧
    seen (fun t => t.reply) (asked .isSoundActive State.reset) = some (.soundActive false) := by decide
/-- R250 with the default parameters. -/
theorem test_size : seen (fun t => t.reply) (asked .getWidth State.reset) = some (.size 64) ∧
    seen (fun t => t.reply) (asked .getHeight State.reset) = some (.size 32) := by decide
/-- E1, R248: after `construct` every byte of the display is 0. -/
theorem test_construct : seen (fun t => (lit t, t.pc, t.reg 1)) (asked .construct ((State.reset.setDisp [(5, 1)]).setReg 1 9)) =
    some ([], 0x0200, 0) := by decide

/-! ## Witnesses: for every statement with hypotheses, values that meet them, at the boundary of each clause -/

theorem witness_DecodeFollowsOpcodeMap :
    (⟨"CLS", 0xF0FF, 0x00E0⟩ : OpcodeRow) ∈ opcodeMap ∧ (⟨"CLS", 0xF0FF, 0x00E0⟩ : OpcodeRow).matchesWord 0x0FE0 = true := by
  decide

theorem witness_UnmatchedWordsAreRejected : legalWord 0x8AB9 = false ∧ fieldF 0x8AB9 = 8 ∧ fieldN 0x8AB9 = 9 := by decide

theorem witness_OnlyIgnoredFieldsAreDropped : decode 0x5127 = .ok (.seReg 1 2) ∧ decode 0x0FE0 = .ok .cls := by decide

/-- The last place a word can be fetched from. -/
theorem witness_StepRunsDecodedInstruction :
    let s := bytesAt (State.reset.setPc 0xFFE) 0xFFE [0x61, 0x32]
    s.pc.toNat + 2 ≤ s.params.memSize ∧
      decode (wordOfBytes (s.read s.pc.toNat) (s.read (s.pc.toNat + 1))) = .ok (.ldImm 1 0x32) ∧
      s.params.strictDecode = false ∧ encode (.ldImm 1 0x32) = wordOfBytes (s.read s.pc.toNat) (s.read (s.pc.toNat + 1)) ∧
      s.host.next.1 = .executeCycle ∧ s.host.listed = [] ∧ s.host.after = .loop .executeCycle [] := by decide

theorem witness_StepAppliesNextTransaction :
    (asked .decrementTimer State.reset).host.listed = .decrementTimer :: [] ∧
    (State.reset.host.listed = [] ∧ State.reset.host.after = .loop .executeCycle []) ∧
    ((State.reset.setHost ⟨[], .free, 0⟩).host.listed = [] ∧ (State.reset.setHost ⟨[], .free, 0⟩).host.after = .free) := by
  decide

/-- Two steps, and two transactions of a host that ticks and then runs a cycle. -/
theorem witness_StepsAdmitEveryHostSequence :
    (∃ t, Host.Core.run Sys2Proof.core 2 State.reset = .next t) ∧
    ∃ t, hostRun (fun k => if k = 0 then .decrementTimer else .executeCycle) 2 State.reset = .next t :=
  ⟨⟨_, rfl⟩, _, rfl⟩

/-- The first place no word can be fetched from. -/
theorem witness_FetchOutsideMemoryFaults : (State.reset.setPc 0xFFF).params.memSize < (State.reset.setPc 0xFFF).pc.toNat + 2 :=
  by decide

theorem witness_IllegalWordRaisesOpcodeNotFound :
    State.reset.pc.toNat + 2 ≤ State.reset.params.memSize ∧ legalWord (fetchWord State.reset) = false := by decide

/-- A `PC` with room for a word, and one without where the program origin has it. -/
theorem witness_PlacedWordIsTheNextInstruction : decodeTableWord 16 0x6132 = some (.ldImm 1 0x32) ∧
    State.reset.params.ok ∧ State.reset.pc.toNat + 2 ≤ State.reset.params.memSize ∧
    (¬ (State.reset.setPc 0xFFF).pc.toNat + 2 ≤ State.reset.params.memSize ∧
      (State.reset.setPc 0xFFF).params.programStart + 2 ≤ State.reset.params.memSize) ∧
    State.reset.params.strictDecode = false ∧ encode (.ldImm 1 0x32) = tableWord 16 0x6132 := by decide

theorem witness_ClearTurnsEveryPixelOff : (0x0FE0 : Word) &&& 0xF0FF = 0x00E0 := by decide

/-- The state with a display one row high, where the rows of a sprite meet. -/
def lowDisplay : State := withParams { Params.defaults with displayHeight := 1 } State.reset

/-- Each clause: the last legal block and the first illegal one; a pixel under one bit, under none, and, on a low display,
under five; a lit one and an unlit one; a cell past the grid; a display as high as the sprite and one that is not. -/
theorem witness_DrawTogglesCoveredPixels :
    (0xD015 : Word) &&& 0xF000 = 0xD000 ∧ State.reset.params.ok ∧ lowDisplay.params.ok ∧
    (State.reset.setI 0x1000).i.toNat + (0 : Fin 16).val ≤ State.reset.params.memSize ∧
    State.reset.params.memSize < (State.reset.setI 0x1001).i.toNat + (0 : Fin 16).val ∧
    (coverCount State.reset 0 1 5 0 0 = 1 ∧ coverCount State.reset 0 1 5 63 31 = 0 ∧ coverCount lowDisplay 0 1 5 0 0 = 5) ∧
    (63 < State.reset.params.displayWidth ∧ 31 < State.reset.params.displayHeight ∧
      State.reset.params.displayCells ≤ 2048) ∧
    ((State.reset.setDisp [(0, 1)]).disp.cell (0 * State.reset.params.displayWidth + 0) = 1 ∧
      coverCount (State.reset.setDisp [(0, 1)]) 0 1 5 0 0 = 1) ∧
    lowDisplay.disp.cell (0 * lowDisplay.params.displayWidth + 0) = 0 ∧
    15 ≤ State.reset.params.displayHeight ∧ ¬ 5 ≤ lowDisplay.params.displayHeight := by decide +kernel

theorem witness_DrawingTwiceRestoresDisplay : State.reset.params.ok ∧
    ∃ t u : State, exec (.drw 0 1 5) State.reset = .next t ∧ exec (.drw 0 1 5) (t.setRegs State.reset.v) = .next u := by
  have hp : State.reset.params.ok := by decide
  obtain ⟨d, c, -, h⟩ := execDrw_inside 0 1 5 State.reset hp (by decide)
  obtain ⟨d', c', -, h'⟩ := execDrw_inside 0 1 5
    ((((State.reset.setDisp d).setVF (flagOf c)).setReply .ok).setRegs State.reset.v) hp
    (show State.reset.i.toNat + (5 : Fin 16).val ≤ State.reset.params.memSize by decide)
  exact ⟨hp, _, _, h, h'⟩

theorem witness_PixelAccessIsCheckedAndNeverFails :
    (63 < Params.defaults.displayWidth ∧ 31 < Params.defaults.displayHeight) ∧
    ¬ (64 < Params.defaults.displayWidth ∧ 31 < Params.defaults.displayHeight) ∧
    ¬ (63 < Params.defaults.displayWidth ∧ 32 < Params.defaults.displayHeight) ∧
    State.reset.params.ok ∧ ∃ t, transact .executeCycle State.reset = .next t :=
  ⟨by decide, by decide, by decide, by decide, _, rfl⟩

/-- One address held, sixteen held, none held. -/
theorem witness_ReturnPopsAddress :
    (0x0FEE : Word) &&& 0xF0FF = 0x00EE ∧
    (0 < Config.stackDepth ∧ (State.reset.setStack 1 State.reset.stack).sp.val = 0 + 1) ∧
    (15 < Config.stackDepth ∧ (State.reset.setStack 16 State.reset.stack).sp.val = 15 + 1) ∧
    State.reset.sp.val = 0 := by decide

theorem witness_JumpLoadsAddress : (0x1ABC : Word) &&& 0xF000 = 0x1000 := by decide

theorem witness_CallPushesReturnAddress :
    (0x2ABC : Word) &&& 0xF000 = 0x2000 ∧ (State.reset.setStack 15 State.reset.stack).sp.val < 16 ∧
    (State.reset.setStack 16 State.reset.stack).sp.val = 16 := by decide

theorem witness_ReturnUndoesCall : ∃ t, exec (.call 0xABC) State.reset = .next t := ⟨_, rfl⟩

theorem witness_SkipOnImmediateComparison :
    (0x3142 : Word) &&& 0xF000 = 0x3000 ∧ (0x4142 : Word) &&& 0xF000 = 0x4000 := by decide

theorem witness_SkipOnRegisterComparison :
    (0x5127 : Word) &&& 0xF000 = 0x5000 ∧ (0x9121 : Word) &&& 0xF000 = 0x9000 := by decide

theorem witness_JumpWithOffsetAddsV0 : (0xB300 : Word) &&& 0xF000 = 0xB000 := by decide

theorem witness_LoadImmediateWritesRegister : (0x6132 : Word) &&& 0xF000 = 0x6000 := by decide

theorem witness_AddImmediateWritesSumAndOverflow : (0x71FF : Word) &&& 0xF000 = 0x7000 ∧ (14 : Reg) ≠ regVF := by decide

theorem witness_CopyRegister : (0x8120 : Word) &&& 0xF00F = 0x8000 := by decide

theorem witness_BitwiseOperationsWriteRegister : (0x8121 : Word) &&& 0xF00F = 0x8001 ∧
    (0x8122 : Word) &&& 0xF00F = 0x8002 ∧ (0x8123 : Word) &&& 0xF00F = 0x8003 := by decide

theorem witness_AddRegistersWritesSumAndCarry : (0x8124 : Word) &&& 0xF00F = 0x8004 ∧ (14 : Reg) ≠ regVF := by decide

theorem witness_SubtractionsWriteDifferenceAndNoBorrow : (0x8125 : Word) &&& 0xF00F = 0x8005 ∧
    (0x8127 : Word) &&& 0xF00F = 0x8007 ∧ (14 : Reg) ≠ regVF := by decide

theorem witness_ShiftRightWritesHalfAndLowBit : (0x8126 : Word) &&& 0xF00F = 0x8006 ∧ (14 : Reg) ≠ regVF := by decide

theorem witness_ShiftLeftWritesDoubleAndRawHighBit : (0x812E : Word) &&& 0xF00F = 0x800E ∧ (14 : Reg) ≠ regVF := by decide

theorem witness_LoadIndexWritesAddress : (0xAFFF : Word) &&& 0xF000 = 0xA000 := by decide

theorem witness_AddToIndexWrapsAtSixteenBits : (0xF21E : Word) &&& 0xF0FF = 0xF01E := by decide

theorem witness_PointToGlyphMultipliesByFive : (0xF329 : Word) &&& 0xF0FF = 0xF029 := by decide

/-- The last legal `I` and the first illegal one (V-M12, V-M13), and addresses on both sides of the block. -/
theorem witness_StoreDecimalDigits :
    (0xF433 : Word) &&& 0xF0FF = 0xF033 ∧ (State.reset.setI 0xFFD).i.toNat + 3 ≤ Params.defaults.memSize ∧
    Params.defaults.memSize < (State.reset.setI 0xFFE).i.toNat + 3 ∧ 0xFFC < dataBase (State.reset.setI 0xFFD) ∧
    dataBase (State.reset.setI 0xFFD) + 3 ≤ 0x1000 := by decide

/-- The last legal `I` and the first illegal one for X = 15 (V-M15, V-M16), and addresses on both sides of the block. -/
theorem witness_StoreRegistersWritesBlock :
    (0xF155 : Word) &&& 0xF0FF = 0xF055 ∧ (State.reset.setI 0xFF0).i.toNat + (15 : Reg).val + 1 ≤ Params.defaults.memSize ∧
    Params.defaults.memSize < (State.reset.setI 0xFF1).i.toNat + (15 : Reg).val + 1 ∧ (15 : Reg) ≤ 15 ∧
    0xFEF < dataBase (State.reset.setI 0xFF0) ∧ dataBase (State.reset.setI 0xFF0) + (15 : Reg).val + 1 ≤ 0x1000 := by decide

/-- The last legal `I` and the first illegal one for X = 0 (V-M19, V-M20). -/
theorem witness_LoadRegistersReadsBlock :
    (0xF265 : Word) &&& 0xF0FF = 0xF065 ∧ (State.reset.setI 0xFFF).i.toNat + (0 : Reg).val + 1 ≤ Params.defaults.memSize ∧
    Params.defaults.memSize < (State.reset.setI 0x1000).i.toNat + (0 : Reg).val + 1 ∧ (0 : Reg) ≤ 0 := by decide

theorem witness_LoadRestoresStoredRegisters :
    (∃ t, exec (.stRegs 14) (State.reset.setI 0x300) = .next t) ∧ (14 : Reg) ≤ 14 ∧ (14 : Reg) < 15 :=
  ⟨⟨_, rfl⟩, by decide, by decide⟩

/-- P5: V0 and V1 stored at 0x208. -/
theorem witness_StoredBytesAreFetchedAsCode :
    (∃ t, exec (.stRegs 1) (State.reset.setI 0x208) = .next t) ∧ (1 : Reg).val = (0 : Reg).val + 1 ∧ (1 : Reg) ≤ 1 ∧
    (0x208 : Word).toNat = (State.reset.setI 0x208).i.toNat + (0 : Reg).val :=
  ⟨⟨_, rfl⟩, by decide, by decide, by decide⟩

/-- A register that names the last key, and one that names none. -/
theorem witness_KeySkipsTestOneKey :
    (0xE29E : Word) &&& 0xF0FF = 0xE09E ∧ (0xE2A1 : Word) &&& 0xF0FF = 0xE0A1 ∧
    ((State.reset.setReg 2 15).reg 2).toNat < Config.numKeys ∧ 16 ≤ ((State.reset.setReg 2 16).reg 2).toNat := by decide

/-- No key down, only the last, and the first. -/
theorem witness_KeyWaitTakesLowestKeyDown :
    (0xF30A : Word) &&& 0xF0FF = 0xF00A ∧ (∀ j (hj : j < Config.numKeys), State.reset.keys[j] = false) ∧
    ((keysDown State.reset [15]).keys[15] = true ∧
      ∀ j (hj : j < 15), (keysDown State.reset [15]).keys[j]'(Nat.lt_trans hj (by decide)) = false) ∧
    ((keysDown State.reset [0, 15]).keys[0] = true ∧
      ∀ j (hj : j < 0), (keysDown State.reset [0, 15]).keys[j]'(Nat.lt_trans hj (by decide)) = false) := by
  decide

theorem witness_TimerMovesCopyOneByte : (0xF307 : Word) &&& 0xF0FF = 0xF007 ∧ (0xF115 : Word) &&& 0xF0FF = 0xF015 ∧
    (0xF218 : Word) &&& 0xF0FF = 0xF018 := by decide

theorem witness_RandomByteIsMasked : (0xC10F : Word) &&& 0xF000 = 0xC000 ∧ (0x0F : Byte).getLsbD 4 = false := by decide

theorem witness_GeneratorIsSeededFromFixedSeed : 4095 < Config.rngN ∧ 3 ≤ 4095 := by decide

/-- A generator whose every word is `q`, at index 4095, so that the next index is 0. -/
def flatRng (q carry : Word32) : Rng := { history := Vector.replicate _ q, carry := carry, idx := ⟨4095, by decide⟩ }

/-- A sum that stays below 2^32 and one that reaches it. -/
theorem witness_GeneratorStepMultipliesWithCarry :
    (0 = ((flatRng 1 5).idx.val + 1) % Config.rngN ∧ 0 < Config.rngN ∧ 1 ≠ 0 ∧ 1 < Config.rngN) ∧
    (7 = ((2 : Word64).toNat * (flatRng 1 5).history[0].toNat + (flatRng 1 5).carry.toNat) % 2 ^ 64 ∧
      7 % 2 ^ 32 + 7 / 2 ^ 32 < 2 ^ 32 ∧ ∃ g out, generatorStep 2 0 (flatRng 1 5) = (g, out)) ∧
    (0x1FFFFFFFF = ((0x1FFFFFFFF : Word64).toNat * (flatRng 1 0).history[0].toNat + (flatRng 1 0).carry.toNat) % 2 ^ 64 ∧
      2 ^ 32 ≤ 0x1FFFFFFFF % 2 ^ 32 + 0x1FFFFFFFF / 2 ^ 32 ∧
      ∃ g out, generatorStep 0x1FFFFFFFF 0 (flatRng 1 0) = (g, out)) := by
  refine ⟨by decide, ⟨?_, by decide, _, _, rfl⟩, ⟨?_, by decide, _, _, rfl⟩⟩
  · simp [flatRng]
  · simp [flatRng]

theorem witness_LoadRomResetsAndPlacesImage :
    (List.replicate 3584 (0xFF : Byte)).length ≤ Params.defaults.memSize - Params.defaults.programStart ∧
    Params.defaults.memSize - Params.defaults.programStart < (List.replicate 3585 (0xFF : Byte)).length := by
  simp only [List.length_replicate]
  decide

/-- Three listed ticks, and a host that only ever ticks. -/
theorem witness_TicksLowerBothTimersToZero :
    (∀ k, k < 3 → (⟨List.replicate 3 .decrementTimer, .free, 0⟩ : HostPlan).seq k = .decrementTimer) ∧
    (∀ k, k < 300 → (⟨[], .loop .decrementTimer [], 0⟩ : HostPlan).seq k = .decrementTimer) := by
  refine ⟨fun k hk => ?_, fun k _ => ?_⟩
  · have : k = 0 ∨ k = 1 ∨ k = 2 := by omega
    rcases this with rfl | rfl | rfl <;> rfl
  · induction k with
    | zero => rfl
    | succ k ih => exact ih (by omega)

theorem witness_KeyEventsSetOneLevel : 15 < 16 ∧ 16 ≤ 16 ∧
    ∃ t u : State, State.reset.keys[15] = false ∧ transact (.keyDown 15) State.reset = .next t ∧
      transact (.keyUp 15) t = .next u := ⟨by decide, by decide, _, _, by decide, rfl, rfl⟩

theorem witness_DisplayReadsReturnCellsAndSize : 63 < Params.defaults.displayWidth ∧ 31 < Params.defaults.displayHeight := by decide

theorem witness_OnlyMatrixElementsAreWritten : ∃ t, exec (.addImm 1 5) State.reset = .next t := ⟨_, rfl⟩

/-- Each of the five cases. -/
theorem witness_FailuresAreExactlyTheTable : State.reset.params.ok ∧
    failureOf (.jp 0x200) State.reset = none ∧
    failureOf (.skp 2) (State.reset.setReg 2 16) = some (.error (.keyIndexOutOfBounds 16)) ∧
    failureOf (.ldB 4) (State.reset.setI 0xFFE) = some (.memoryOutOfBounds 0x1001) ∧
    failureOf (.call 0x200) (State.reset.setStack 16 State.reset.stack) = some .stackOverflow ∧
    failureOf .ret State.reset = some .stackUnderflow := by decide

/-- A fault of the fetch and one of an instruction. -/
theorem witness_FaultedCycleLeavesTabledState :
    (∃ f, executeCycle (State.reset.setPc 0xFFF) = .fault f) ∧ ∃ f, executeCycle (at200 0x00EE) = .fault f :=
  ⟨⟨_, rfl⟩, _, rfl⟩

theorem witness_StepKeepsStateInvariant : State.reset.Inv ∧ (∃ t, step State.reset = .next t) ∧
    (State.reset.setPc 0xFFF).Inv ∧ (∃ f, step (State.reset.setPc 0xFFF) = .fault f) ∧
    ∃ t, hostRun (fun _ => .decrementTimer) 3 State.reset = .next t := by
  have h : State.reset.Inv := ⟨by decide, Memory.wf_nil _, Display.wf_nil _, fun _ => .inl rfl⟩
  exact ⟨h, ⟨_, rfl⟩, h, ⟨_, rfl⟩, _, rfl⟩

theorem witness_ResetStateMeetsInvariant : ({ Params.defaults with memSize := 65536 } : Params).ok := by decide

/-- The default, a non-canonical word under `STRICT_DECODE`, and its refusal. -/
theorem witness_NoStepIsRefused :
    let s := withParams { Params.defaults with strictDecode := true } (at200 0x5127)
    State.reset.params.strictDecode = false ∧ s.params.strictDecode = true ∧ s.pc.toNat + 2 ≤ s.params.memSize ∧
      decode (fetchWord s) = .ok (.seReg 1 2) ∧ encode (.seReg 1 2) ≠ fetchWord s ∧
      ∃ r, transact .executeCycle s = .refused r :=
  ⟨by decide, by decide, by decide, by decide, by decide, _, rfl⟩

theorem witness_EarlierReplyNeverMatters : ∃ t, step State.reset = .next t := ⟨_, rfl⟩

/-- An instruction that sets the sound timer and one that does not. -/
theorem witness_NoInstructionReadsSoundTimer :
    ((∃ t, exec (.ldStVx 1) State.reset = .next t) ∧ mayWrite (.ldStVx 1) .sound) ∧
    (∃ t, exec (.ldVxDt 1) State.reset = .next t) ∧ ¬ mayWrite (.ldVxDt 1) .sound :=
  ⟨⟨⟨_, rfl⟩, rfl⟩, ⟨_, rfl⟩, fun h => by cases h⟩

theorem witness_CyclesDoNotTickTimersOrMoveKeys : ∃ t, executeCycle State.reset = .next t := ⟨_, rfl⟩

/-- V-C2. -/
theorem witness_EndedRunStaysWhereItIs : (at200 0x1200).RunEnded := by decide

end Sys2Proof.Tests
end

section
/-!
PROOFS. Control flow (40_control_flow.md): the jump and the skips on an immediate. First the frame of an instruction that
changes nothing but `PC`, once for all of them.
-/

namespace Sys2Proof.Machine

/-! ## Decoding a whole family -/

/-- A row that takes every word of its family is settled by the decoder's answer for that family. -/
theorem decodesAs_of_family {p : Word} {mk : Word → Instr} (h : ∀ {w}, fieldF w = fieldF p → decode w = .ok (mk w)) :
    DecodesAs 0xF000 p mk := fun _ hw => h (fieldF_of_mask hw rfl)

/-! ## Frames: `PC` and the reply are no elements of the access matrix (10_state.md R36) -/

@[simp] theorem sameElement_refl (e : Element) (s : State) : SameElement e s s := by
  cases e <;> simp [SameElement]

@[simp] theorem sameElement_setPc (e : Element) (s t : State) (p : Word) :
    SameElement e s (t.setPc p) ↔ SameElement e s t := by
  cases e <;> exact Iff.rfl

@[simp] theorem sameElement_setReply (e : Element) (s t : State) (r : Reply) :
    SameElement e s (t.setReply r) ↔ SameElement e s t := by
  cases e <;> exact Iff.rfl

@[simp] theorem sameBut_refl (except : Element → Prop) (s : State) : SameBut except s s :=
  ⟨fun e _ => sameElement_refl e s, rfl, rfl⟩

@[simp] theorem sameBut_setPc (except : Element → Prop) (s t : State) (p : Word) :
    SameBut except s (t.setPc p) ↔ SameBut except s t := by
  simp only [SameBut, sameElement_setPc, State.setPc_host, State.setPc_params]

@[simp] theorem sameBut_setReply (except : Element → Prop) (s t : State) (r : Reply) :
    SameBut except s (t.setReply r) ↔ SameBut except s t := by
  simp only [SameBut, sameElement_setReply, State.setReply_host, State.setReply_params]

@[simp] theorem sameBut_skipIf (except : Element → Prop) (s t : State) (c : Bool) :
    SameBut except s (t.skipIf c) ↔ SameBut except s t := by
  cases c with
  | false => exact Iff.rfl
  | true => exact sameBut_setPc except s t (t.pc + 2)

/-! ## Instructions that complete -/

/-- An instruction that completes with the state `u` ends `Ok`; its frame is that of `u`. -/
theorem endsOk_of_complete {i : Instr} {s u : State} {except : Element → Prop} {post : State → Prop}
    (hexec : exec i s = complete u) (hframe : SameBut except s u) (hpost : post (u.setReply .ok)) :
    EndsOk i s except post :=
  ⟨u.setReply .ok, hexec, rfl, (sameBut_setReply except s u .ok).mpr hframe, hpost⟩

/-! ## The obligations -/

/-- Settles O17: every word of family 1 is the jump, and the jump writes `PC` alone. -/
theorem jumpLoadsAddress : Obligations.JumpLoadsAddress := by
  refine ⟨decodesAs_of_family decode_family1, fun s nnn => ?_⟩
  refine endsOk_of_complete (u := s.setPc (zextAddr nnn)) rfl ?_ (toNat_zextAddr nnn)
  exact (sameBut_setPc ..).mpr (sameBut_refl ..)

/-- Settles O20: families 3 and 4 are the two skips, and a skip writes `PC` alone, by its condition. -/
theorem skipOnImmediateComparison : Obligations.SkipOnImmediateComparison := by
  refine ⟨decodesAs_of_family decode_family3, decodesAs_of_family decode_family4, fun s x nn => ⟨?_, ?_⟩⟩
  · refine endsOk_of_complete (u := s.skipIf (s.reg x == nn)) rfl ((sameBut_skipIf ..).mpr (sameBut_refl ..)) ?_
    simp only [State.setReply_pc, State.skipIf_pc, beq_iff_eq]
  · refine endsOk_of_complete (u := s.skipIf (s.reg x != nn)) rfl ((sameBut_skipIf ..).mpr (sameBut_refl ..)) ?_
    simp only [State.setReply_pc, State.skipIf_pc, bne_iff_ne, ne_eq, ite_not]

end Sys2Proof.Machine
end

section
/-!
PROOFS. Loads (41_load_and_alu.md): the two that write one register and no flag. First the frame of a register write and
the end of an instruction that is one, once for all of them.
-/

namespace Sys2Proof.Machine

/-! ## Decoding an operation of family 8 (30_encoding.md R84, R86) -/

/-- A row of family 8 that takes every word with its selector `N` is settled by what the family's decoder answers for that
selector. -/
theorem decodesAs_of_operation {p : Word} {mk : Word → Instr} (hp : fieldF p = 0x8#4)
    (h : ∀ {w}, fieldN w = fieldN p → decodeFamily8 w = .ok (mk w)) : DecodesAs 0xF00F p mk := fun _ hw =>
  (decode_family8 ((fieldF_of_mask hw rfl).trans hp)).trans (h (fieldN_of_mask hw rfl))

theorem decodeFamily8_load {op : Word} (h : fieldN op = 0x0#4) :
    decodeFamily8 op = .ok (.ldReg (fieldX op) (fieldY op)) := by
  simp only [decodeFamily8, h]

/-! ## The frame of a register write -/

/-- Writing `V[x]` changes no other element. -/
theorem sameElement_setReg {e : Element} {x : Reg} (he : e ≠ .reg x) (s t : State) (b : Byte) :
    SameElement e s (t.setReg x b) ↔ SameElement e s t := by
  cases e with
  | reg r =>
    have hr : r ≠ x := fun h => he (congrArg Element.reg h)
    simp only [SameElement, State.reg_setReg, if_neg hr]
  | _ => exact Iff.rfl

/-- A frame that leaves out `V[x]` does not see a write to it. -/
theorem sameBut_setReg {except : Element → Prop} {x : Reg} (hx : except (.reg x)) (s t : State) (b : Byte) :
    SameBut except s (t.setReg x b) ↔ SameBut except s t := by
  have hne : ∀ e, ¬ except e → e ≠ .reg x := fun e he h => he (h ▸ hx)
  exact and_congr (forall₂_congr fun e he => sameElement_setReg (hne e he) s t b) Iff.rfl

/-- An instruction that is one register write ends `Ok` with that byte in `V[x]`, `PC` past the instruction, and nothing
else changed. -/
theorem endsOk_of_writeResult {i : Instr} {s : State} {x : Reg} {b : Byte} (hexec : exec i s = writeResult x b s) :
    EndsOk i s (fun e => e = .reg x) (fun t => t.pc = s.pc ∧ t.reg x = b) := by
  have hframe : SameBut (fun e => e = .reg x) s (s.setReg x b) := (sameBut_setReg (by rfl) ..).mpr (sameBut_refl ..)
  refine endsOk_of_complete hexec hframe ⟨rfl, ?_⟩
  simp only [State.setReply_reg, State.reg_setReg, if_true]

/-! ## The obligations -/

/-- Settles O23: every word of family 6 is the load, which writes its immediate to `V[X]`, `VF` for X = 15. -/
theorem loadImmediateWritesRegister : Obligations.LoadImmediateWritesRegister :=
  ⟨decodesAs_of_family decode_family6, fun _ _ _ => endsOk_of_writeResult rfl⟩

/-- Settles O25: selector 0 of family 8 is the copy, which writes the byte `V[Y]` held before to `V[X]`. -/
theorem copyRegister : Obligations.CopyRegister :=
  ⟨decodesAs_of_operation rfl decodeFamily8_load, fun _ _ _ => endsOk_of_writeResult rfl⟩

end Sys2Proof.Machine
end

section
/-!
PROOFS. The index register (42_index_and_memory.md): the load of an address and the addition of a register. First the frame
of a write to `I` and the end of an instruction that is one, once for all of them.
-/

namespace Sys2Proof.Machine

/-! ## Decoding an operation of family F (30_encoding.md R84) -/

/-- A row of family F that takes every word with its selector `NN` is settled by what the family's decoder answers for that
selector. -/
theorem decodesAs_of_selectorF {p : Word} {mk : Word → Instr} (hp : fieldF p = 0xF#4)
    (h : ∀ {w}, fieldNN w = fieldNN p → decodeFamilyF w = .ok (mk w)) : DecodesAs 0xF0FF p mk := fun _ hw =>
  (decode_familyF ((fieldF_of_mask hw rfl).trans hp)).trans (h (fieldNN_of_mask hw rfl))

theorem decodeFamilyF_addI {op : Word} (h : fieldNN op = 0x1E#8) : decodeFamilyF op = .ok (.addI (fieldX op)) := by
  simp only [decodeFamilyF, h]

/-! ## The frame of a write to `I` -/

/-- Writing `I` changes no other element. -/
theorem sameElement_setI {e : Element} (he : e ≠ .index) (s t : State) (w : Word) :
    SameElement e s (t.setI w) ↔ SameElement e s t := by
  cases e with
  | index => exact absurd rfl he
  | _ => exact Iff.rfl

/-- A frame that leaves out `I` does not see a write to it. -/
theorem sameBut_setI {except : Element → Prop} (hx : except .index) (s t : State) (w : Word) :
    SameBut except s (t.setI w) ↔ SameBut except s t := by
  have hne : ∀ e, ¬ except e → e ≠ .index := fun e he h => he (h ▸ hx)
  exact and_congr (forall₂_congr fun e he => sameElement_setI (hne e he) s t w) Iff.rfl

/-- An instruction that is one write to `I` ends `Ok` with that word in `I`, here read as a number, `PC` past the
instruction, and nothing else changed. -/
theorem endsOk_of_setI {i : Instr} {s : State} {w : Word} {n : Nat} (hexec : exec i s = complete (s.setI w))
    (hn : w.toNat = n) : EndsOk i s (fun e => e = .index) (fun t => t.pc = s.pc ∧ t.i.toNat = n) :=
  endsOk_of_complete hexec ((sameBut_setI (by rfl) ..).mpr (sameBut_refl ..)) ⟨rfl, hn⟩

/-- The sum of a word and a register's byte as a number: the wrap is at 2^16 (R164). -/
theorem toNat_add_zextByte (w : Word) (b : Byte) : (w + zextByte b).toNat = (w.toNat + b.toNat) % 65536 := by
  rw [BitVec.toNat_add, toNat_zextByte]

/-! ## The obligations -/

/-- Settles O31: every word of family A is the load, and the address it writes to `I` is zero-extended, so the upper 4 bits
of `I` become 0. -/
theorem loadIndexWritesAddress : Obligations.LoadIndexWritesAddress :=
  ⟨decodesAs_of_family decode_familyA, fun _ nnn => endsOk_of_setI rfl (toNat_zextAddr nnn)⟩

/-- Settles O32: selector `1E` of family F is the addition, a word's sum with `V[X]` written to `I` alone, `VF` for
X = 15 being read and not written. -/
theorem addToIndexWrapsAtSixteenBits : Obligations.AddToIndexWrapsAtSixteenBits :=
  ⟨decodesAs_of_selectorF rfl decodeFamilyF_addI, fun s x => endsOk_of_setI rfl (toNat_add_zextByte s.i (s.reg x))⟩

end Sys2Proof.Machine
end

section
/-!
PROOFS. Timers (44_keys_timers_random.md): the three moves of one byte between a register and a timer. The move to the
register is a register write; for the other two, first the frame of a timer write.
-/

namespace Sys2Proof.Machine

/-! ## Decoding the timer moves -/

theorem decodeFamilyF_readDelay {op : Word} (h : fieldNN op = 0x07#8) :
    decodeFamilyF op = .ok (.ldVxDt (fieldX op)) := by
  simp only [decodeFamilyF, h]

theorem decodeFamilyF_setDelay {op : Word} (h : fieldNN op = 0x15#8) :
    decodeFamilyF op = .ok (.ldDtVx (fieldX op)) := by
  simp only [decodeFamilyF, h]

theorem decodeFamilyF_setSound {op : Word} (h : fieldNN op = 0x18#8) :
    decodeFamilyF op = .ok (.ldStVx (fieldX op)) := by
  simp only [decodeFamilyF, h]

/-! ## The frame of a timer write -/

/-- A frame that leaves out the element `d` does not tell apart two states that differ in `d` alone. -/
theorem sameBut_congr {except : Element → Prop} {d : Element} (hd : except d) {s t u : State}
    (helem : ∀ e, e ≠ d → (SameElement e s u ↔ SameElement e s t)) (hhost : u.host = t.host)
    (hparams : u.params = t.params) : SameBut except s u ↔ SameBut except s t := by
  have hne : ∀ e, ¬ except e → e ≠ d := fun e he h => he (h ▸ hd)
  simp only [SameBut, hhost, hparams]
  exact and_congr (forall₂_congr fun e he => helem e (hne e he)) Iff.rfl

/-- Writing `DT` changes no other element. -/
theorem sameElement_setDt {e : Element} (he : e ≠ .delay) (s t : State) (b : Byte) :
    SameElement e s (t.setDt b) ↔ SameElement e s t := by
  cases e with
  | delay => exact absurd rfl he
  | _ => exact Iff.rfl

/-- Writing `ST` changes no other element. -/
theorem sameElement_setSt {e : Element} (he : e ≠ .sound) (s t : State) (b : Byte) :
    SameElement e s (t.setSt b) ↔ SameElement e s t := by
  cases e with
  | sound => exact absurd rfl he
  | _ => exact Iff.rfl

/-- A frame that leaves out `DT` does not see a write to it. -/
theorem sameBut_setDt {except : Element → Prop} (hd : except .delay) (s t : State) (b : Byte) :
    SameBut except s (t.setDt b) ↔ SameBut except s t :=
  sameBut_congr hd (fun _ he => sameElement_setDt he s t b) (t.setDt_host b) (t.setDt_params b)

/-- A frame that leaves out `ST` does not see a write to it. -/
theorem sameBut_setSt {except : Element → Prop} (hd : except .sound) (s t : State) (b : Byte) :
    SameBut except s (t.setSt b) ↔ SameBut except s t :=
  sameBut_congr hd (fun _ he => sameElement_setSt he s t b) (t.setSt_host b) (t.setSt_params b)

/-! ## The obligation -/

/-- Settles O41: selectors `07`, `15` and `18` of family F are the three moves; the first writes `V[X]` alone, `VF` for
X = 15, and each of the others writes its own timer alone. -/
theorem timerMovesCopyOneByte : Obligations.TimerMovesCopyOneByte := by
  refine ⟨decodesAs_of_selectorF rfl decodeFamilyF_readDelay, decodesAs_of_selectorF rfl decodeFamilyF_setDelay,
    decodesAs_of_selectorF rfl decodeFamilyF_setSound, fun s x => ⟨endsOk_of_writeResult rfl, ?_, ?_⟩⟩
  · have hframe : SameBut (fun e => e = .delay) s (s.setDt (s.reg x)) := (sameBut_setDt (by rfl) ..).mpr (sameBut_refl ..)
    exact endsOk_of_complete rfl hframe ⟨rfl, rfl⟩
  · have hframe : SameBut (fun e => e = .sound) s (s.setSt (s.reg x)) := (sameBut_setSt (by rfl) ..).mpr (sameBut_refl ..)
    exact endsOk_of_complete rfl hframe ⟨rfl, rfl⟩

end Sys2Proof.Machine
end

section
/-!
PROOFS. Encoding (30_encoding.md): the decoder undoes the encoder, the opcode map decides the decoder's answer, and what
decoding drops. First a word in terms of its fields, and what the families with a selector answer for each selector.
-/

namespace Sys2Proof.Machine

/-! ## A word in terms of its fields (R81, R82), and what a mask leaves of it -/

theorem formatA_fields (w : Word) : formatA (fieldF w) (fieldNNN w) = w :=
  (BitVec.extractLsb'_append_extractLsb'_eq_extractLsb' rfl).trans BitVec.extractLsb'_eq_self

theorem formatXYN_fields (w : Word) : formatXYN (fieldF w) (fieldX w) (fieldY w) (fieldN w) = w := (word_eq_append w).symm

theorem formatXI_fields (w : Word) : formatXI (fieldF w) (fieldX w) (fieldNN w) = w := by
  have hx : fieldF w ++ regBits (fieldX w) = w.extractLsb' 8 8 := BitVec.extractLsb'_append_extractLsb'_eq_extractLsb' rfl
  exact (congrArg (· ++ fieldNN w) hx).trans
    ((BitVec.extractLsb'_append_extractLsb'_eq_extractLsb' rfl).trans BitVec.extractLsb'_eq_self)

/-- Clearing N (R93: families 5 and 9). -/
theorem formatXYN_maskFXY (f : BitVec 4) (x y : Reg) (n : BitVec 4) :
    formatXYN f x y n &&& 0xFFF0 = formatXYN f x y 0 :=
  (BitVec.and_append (x₁ := f ++ regBits x ++ regBits y) (x₂ := 15#4 ++ 15#4 ++ 15#4) (y₁ := n) (y₂ := 0#4)).trans
    (by rw [BitVec.and_append, BitVec.and_append, and_15, and_15, and_15, BitVec.and_zero]; rfl)

/-- Clearing Y (R93: the shifts). -/
theorem formatXYN_maskFXN (f : BitVec 4) (x y : Reg) (n : BitVec 4) :
    formatXYN f x y n &&& 0xFF0F = formatXYN f x 0 n :=
  (BitVec.and_append (x₁ := f ++ regBits x ++ regBits y) (x₂ := 15#4 ++ 15#4 ++ 0#4) (y₁ := n) (y₂ := 15#4)).trans
    (by rw [BitVec.and_append, BitVec.and_append, and_15, and_15, and_15, BitVec.and_zero]; rfl)

/-! ## What a family's decoder answers for a selector (R84) -/

theorem decodeFamily0_clear {op : Word} (h : fieldNN op = 0xE0#8) : decodeFamily0 op = .ok .cls := by
  simp only [decodeFamily0, h]

theorem decodeFamily0_return {op : Word} (h : fieldNN op = 0xEE#8) : decodeFamily0 op = .ok .ret := by
  simp only [decodeFamily0, h]

theorem decodeFamily8_or {op : Word} (h : fieldN op = 0x1#4) :
    decodeFamily8 op = .ok (.orReg (fieldX op) (fieldY op)) := by
  simp only [decodeFamily8, h]

theorem decodeFamily8_and {op : Word} (h : fieldN op = 0x2#4) :
    decodeFamily8 op = .ok (.andReg (fieldX op) (fieldY op)) := by
  simp only [decodeFamily8, h]

theorem decodeFamily8_xor {op : Word} (h : fieldN op = 0x3#4) :
    decodeFamily8 op = .ok (.xorReg (fieldX op) (fieldY op)) := by
  simp only [decodeFamily8, h]

theorem decodeFamily8_add {op : Word} (h : fieldN op = 0x4#4) :
    decodeFamily8 op = .ok (.addReg (fieldX op) (fieldY op)) := by
  simp only [decodeFamily8, h]

theorem decodeFamily8_sub {op : Word} (h : fieldN op = 0x5#4) :
    decodeFamily8 op = .ok (.sub (fieldX op) (fieldY op)) := by
  simp only [decodeFamily8, h]

theorem decodeFamily8_shr {op : Word} (h : fieldN op = 0x6#4) : decodeFamily8 op = .ok (.shr (fieldX op)) := by
  simp only [decodeFamily8, h]

theorem decodeFamily8_subn {op : Word} (h : fieldN op = 0x7#4) :
    decodeFamily8 op = .ok (.subn (fieldX op) (fieldY op)) := by
  simp only [decodeFamily8, h]

theorem decodeFamily8_shl {op : Word} (h : fieldN op = 0xE#4) : decodeFamily8 op = .ok (.shl (fieldX op)) := by
  simp only [decodeFamily8, h]

theorem decodeFamilyE_skip {op : Word} (h : fieldNN op = 0x9E#8) : decodeFamilyE op = .ok (.skp (fieldX op)) := by
  simp only [decodeFamilyE, h]

theorem decodeFamilyE_skipNot {op : Word} (h : fieldNN op = 0xA1#8) : decodeFamilyE op = .ok (.sknp (fieldX op)) := by
  simp only [decodeFamilyE, h]

theorem decodeFamilyF_keyWait {op : Word} (h : fieldNN op = 0x0A#8) : decodeFamilyF op = .ok (.ldVxK (fieldX op)) := by
  simp only [decodeFamilyF, h]

theorem decodeFamilyF_glyph {op : Word} (h : fieldNN op = 0x29#8) : decodeFamilyF op = .ok (.ldF (fieldX op)) := by
  simp only [decodeFamilyF, h]

theorem decodeFamilyF_digits {op : Word} (h : fieldNN op = 0x33#8) : decodeFamilyF op = .ok (.ldB (fieldX op)) := by
  simp only [decodeFamilyF, h]

theorem decodeFamilyF_store {op : Word} (h : fieldNN op = 0x55#8) : decodeFamilyF op = .ok (.stRegs (fieldX op)) := by
  simp only [decodeFamilyF, h]

theorem decodeFamilyF_load {op : Word} (h : fieldNN op = 0x65#8) : decodeFamilyF op = .ok (.ldRegs (fieldX op)) := by
  simp only [decodeFamilyF, h]

/-- A row of family 0 that takes every word with its selector `NN` is settled by what the family's decoder answers for that
selector. -/
theorem decodesAs_of_selector0 {p : Word} {mk : Word → Instr} (hp : fieldF p = 0x0#4)
    (h : ∀ {w}, fieldNN w = fieldNN p → decodeFamily0 w = .ok (mk w)) : DecodesAs 0xF0FF p mk := fun _ hw =>
  (decode_family0 ((fieldF_of_mask hw rfl).trans hp)).trans (h (fieldNN_of_mask hw rfl))

/-- The same for a row of family E. -/
theorem decodesAs_of_selectorE {p : Word} {mk : Word → Instr} (hp : fieldF p = 0xE#4)
    (h : ∀ {w}, fieldNN w = fieldNN p → decodeFamilyE w = .ok (mk w)) : DecodesAs 0xF0FF p mk := fun _ hw =>
  (decode_familyE ((fieldF_of_mask hw rfl).trans hp)).trans (h (fieldNN_of_mask hw rfl))

/-! ## The decoder undoes the encoder -/

/-- Settles O1: the fields of an encoded word are the instruction's operands, and its family and selector are those the
decoder dispatches on; one case for each format and decoder. -/
theorem encodedInstructionDecodesBack : Obligations.EncodedInstructionDecodesBack := by
  intro i
  cases i with
  | cls | ret => rfl
  | jp nnn | call nnn | ldI nnn | jpV0 nnn => simp [encode, decode]
  | seImm x nn | sneImm x nn | ldImm x nn | addImm x nn | rnd x nn => simp [encode, decode]
  | seReg x y | sneReg x y | drw x y n => simp [encode, decode]
  | ldReg x y | orReg x y | andReg x y | xorReg x y | addReg x y | sub x y | shr x | subn x y | shl x =>
    simp [encode, decode, decodeFamily8]
  | skp x | sknp x => simp [encode, decode, decodeFamilyE]
  | ldVxDt x | ldVxK x | ldDtVx x | ldStVx x | addI x | ldF x | ldB x | stRegs x | ldRegs x =>
    simp [encode, decode, decodeFamilyF]

/-! ## What decoding drops (R84, R93) -/

theorem formatA_of_fields {w : Word} {f : BitVec 4} (hf : fieldF w = f) : formatA f (fieldNNN w) = w :=
  hf ▸ formatA_fields w

theorem formatXI_of_fields {w : Word} {f : BitVec 4} {nn : Byte} (hf : fieldF w = f) (hnn : fieldNN w = nn) :
    formatXI f (fieldX w) nn = w := hf ▸ hnn ▸ formatXI_fields w

theorem formatXYN_of_fields {w : Word} {f n : BitVec 4} (hf : fieldF w = f) (hn : fieldN w = n) :
    formatXYN f (fieldX w) (fieldY w) n = w := hf ▸ hn ▸ formatXYN_fields w

/-- The encoding of `i` is the word with the don't-care fields of `i` cleared. -/
def SpelledAs (i : Instr) (w : Word) : Prop := encode i = w &&& i.careMask

/-- An instruction that ignores no field is spelled in one way. -/
theorem spelledAs_of_eq {i : Instr} {w : Word} (hc : i.careMask = 0xFFFF) (h : encode i = w) : SpelledAs i w := by
  rw [SpelledAs, hc, h]
  exact BitVec.and_allOnes.symm

theorem spelledAs_of_decodeFamily0 {w : Word} {i : Instr} (hf : fieldF w = 0x0#4) (h : decodeFamily0 w = .ok i) :
    SpelledAs i w := by
  have hmask : ∀ {nn : Byte}, fieldNN w = nn → formatXI 0x0 0 nn = w &&& 0xF0FF := fun hnn => by
    rw [← formatXI_fields w, Laws.formatXI_maskFNN, hf, hnn]; rfl
  unfold decodeFamily0 at h
  split at h
  next hnn => cases h; exact hmask hnn
  next hnn => cases h; exact hmask hnn
  next => cases h

theorem spelledAs_of_decodeFamily8 {w : Word} {i : Instr} (hf : fieldF w = 0x8#4) (h : decodeFamily8 w = .ok i) :
    SpelledAs i w := by
  have hshift : ∀ {n : BitVec 4}, fieldN w = n → formatXYN 0x8 (fieldX w) 0 n = w &&& 0xFF0F := fun hn =>
    (formatXYN_maskFXN 0x8 (fieldX w) (fieldY w) _).symm.trans (congrArg (· &&& 0xFF0F) (formatXYN_of_fields hf hn))
  unfold decodeFamily8 at h
  split at h <;> cases h
  next hn => exact spelledAs_of_eq rfl (formatXYN_of_fields hf hn)
  next hn => exact spelledAs_of_eq rfl (formatXYN_of_fields hf hn)
  next hn => exact spelledAs_of_eq rfl (formatXYN_of_fields hf hn)
  next hn => exact spelledAs_of_eq rfl (formatXYN_of_fields hf hn)
  next hn => exact spelledAs_of_eq rfl (formatXYN_of_fields hf hn)
  next hn => exact spelledAs_of_eq rfl (formatXYN_of_fields hf hn)
  next hn => exact hshift hn
  next hn => exact spelledAs_of_eq rfl (formatXYN_of_fields hf hn)
  next hn => exact hshift hn

theorem spelledAs_of_decodeFamilyE {w : Word} {i : Instr} (hf : fieldF w = 0xE#4) (h : decodeFamilyE w = .ok i) :
    SpelledAs i w := by
  unfold decodeFamilyE at h
  split at h <;> cases h
  all_goals exact spelledAs_of_eq rfl (formatXI_of_fields hf ‹_›)

theorem spelledAs_of_decodeFamilyF {w : Word} {i : Instr} (hf : fieldF w = 0xF#4) (h : decodeFamilyF w = .ok i) :
    SpelledAs i w := by
  unfold decodeFamilyF at h
  split at h <;> cases h
  all_goals exact spelledAs_of_eq rfl (formatXI_of_fields hf ‹_›)

/-- The families without a selector that ignore N. -/
theorem spelledAs_of_ignoredN {w : Word} {f : BitVec 4} {i : Instr} (hf : fieldF w = f) (hc : i.careMask = 0xFFF0)
    (h : encode i = formatXYN f (fieldX w) (fieldY w) 0) : SpelledAs i w := by
  rw [SpelledAs, hc, h, ← hf, ← formatXYN_maskFXY, formatXYN_fields]

theorem family_cases (f : BitVec 4) : f = 0x0 ∨ f = 0x1 ∨ f = 0x2 ∨ f = 0x3 ∨ f = 0x4 ∨ f = 0x5 ∨ f = 0x6 ∨ f = 0x7 ∨
    f = 0x8 ∨ f = 0x9 ∨ f = 0xA ∨ f = 0xB ∨ f = 0xC ∨ f = 0xD ∨ f = 0xE ∨ f = 0xF := by
  revert f; decide

/-- Settles O4: by family, the accepted word is put together again from the fields that became operands; the fields that did
not are those `careMask` clears. -/
theorem onlyIgnoredFieldsAreDropped : Obligations.OnlyIgnoredFieldsAreDropped := by
  intro w i h
  rcases family_cases (fieldF w) with hf | hf | hf | hf | hf | hf | hf | hf | hf | hf | hf | hf | hf | hf | hf | hf
  · rw [decode_family0 hf] at h; exact spelledAs_of_decodeFamily0 hf h
  · rw [decode_family1 hf] at h; cases h; exact spelledAs_of_eq rfl (formatA_of_fields hf)
  · rw [decode_family2 hf] at h; cases h; exact spelledAs_of_eq rfl (formatA_of_fields hf)
  · rw [decode_family3 hf] at h; cases h; exact spelledAs_of_eq rfl (formatXI_of_fields hf rfl)
  · rw [decode_family4 hf] at h; cases h; exact spelledAs_of_eq rfl (formatXI_of_fields hf rfl)
  · rw [decode_family5 hf] at h; cases h; exact spelledAs_of_ignoredN hf rfl rfl
  · rw [decode_family6 hf] at h; cases h; exact spelledAs_of_eq rfl (formatXI_of_fields hf rfl)
  · rw [decode_family7 hf] at h; cases h; exact spelledAs_of_eq rfl (formatXI_of_fields hf rfl)
  · rw [decode_family8 hf] at h; exact spelledAs_of_decodeFamily8 hf h
  · rw [decode_family9 hf] at h; cases h; exact spelledAs_of_ignoredN hf rfl rfl
  · rw [decode_familyA hf] at h; cases h; exact spelledAs_of_eq rfl (formatA_of_fields hf)
  · rw [decode_familyB hf] at h; cases h; exact spelledAs_of_eq rfl (formatA_of_fields hf)
  · rw [decode_familyC hf] at h; cases h; exact spelledAs_of_eq rfl (formatXI_of_fields hf rfl)
  · rw [decode_familyD hf] at h; cases h; exact spelledAs_of_eq rfl (formatXYN_of_fields hf rfl)
  · rw [decode_familyE hf] at h; exact spelledAs_of_decodeFamilyE hf h
  · rw [decode_familyF hf] at h; exact spelledAs_of_decodeFamilyF hf h

/-! ## The opcode map decides (R85) -/

/-- Every word the row matches is an instruction of the row's mnemonic. -/
def RowDecodes (r : OpcodeRow) : Prop := ∀ w, r.matchesWord w = true → ∃ i, decode w = .ok i ∧ i.mnemonic = r.mnemonic

theorem rowDecodes_of_decodesAs {name : String} {mask pattern : Word} {mk : Word → Instr}
    (h : DecodesAs mask pattern mk) (hn : ∀ w, (mk w).mnemonic = name) : RowDecodes ⟨name, mask, pattern⟩ :=
  fun w hw => ⟨mk w, h w (beq_iff_eq.mp hw), hn w⟩

theorem rowDecodes_of_mem {r : OpcodeRow} (hr : r ∈ opcodeMap) : RowDecodes r := by
  revert r
  simp only [opcodeMap, List.cons_append, List.nil_append, List.forall_mem_cons]
  exact ⟨rowDecodes_of_decodesAs (decodesAs_of_selector0 rfl decodeFamily0_clear) fun _ => rfl,
    rowDecodes_of_decodesAs (decodesAs_of_selector0 rfl decodeFamily0_return) fun _ => rfl,
    rowDecodes_of_decodesAs (decodesAs_of_family decode_family1) fun _ => rfl,
    rowDecodes_of_decodesAs (decodesAs_of_family decode_family2) fun _ => rfl,
    rowDecodes_of_decodesAs (decodesAs_of_family decode_family3) fun _ => rfl,
    rowDecodes_of_decodesAs (decodesAs_of_family decode_family4) fun _ => rfl,
    rowDecodes_of_decodesAs (decodesAs_of_family decode_family5) fun _ => rfl,
    rowDecodes_of_decodesAs (decodesAs_of_family decode_family6) fun _ => rfl,
    rowDecodes_of_decodesAs (decodesAs_of_family decode_family7) fun _ => rfl,
    rowDecodes_of_decodesAs (decodesAs_of_operation rfl decodeFamily8_load) fun _ => rfl,
    rowDecodes_of_decodesAs (decodesAs_of_operation rfl decodeFamily8_or) fun _ => rfl,
    rowDecodes_of_decodesAs (decodesAs_of_operation rfl decodeFamily8_and) fun _ => rfl,
    rowDecodes_of_decodesAs (decodesAs_of_operation rfl decodeFamily8_xor) fun _ => rfl,
    rowDecodes_of_decodesAs (decodesAs_of_operation rfl decodeFamily8_add) fun _ => rfl,
    rowDecodes_of_decodesAs (decodesAs_of_operation rfl decodeFamily8_sub) fun _ => rfl,
    rowDecodes_of_decodesAs (decodesAs_of_operation rfl decodeFamily8_shr) fun _ => rfl,
    rowDecodes_of_decodesAs (decodesAs_of_operation rfl decodeFamily8_subn) fun _ => rfl,
    rowDecodes_of_decodesAs (decodesAs_of_operation rfl decodeFamily8_shl) fun _ => rfl,
    rowDecodes_of_decodesAs (decodesAs_of_family decode_family9) fun _ => rfl,
    rowDecodes_of_decodesAs (decodesAs_of_family decode_familyA) fun _ => rfl,
    rowDecodes_of_decodesAs (decodesAs_of_family decode_familyB) fun _ => rfl,
    rowDecodes_of_decodesAs (decodesAs_of_family decode_familyC) fun _ => rfl,
    rowDecodes_of_decodesAs (decodesAs_of_family decode_familyD) fun _ => rfl,
    rowDecodes_of_decodesAs (decodesAs_of_selectorE rfl decodeFamilyE_skip) fun _ => rfl,
    rowDecodes_of_decodesAs (decodesAs_of_selectorE rfl decodeFamilyE_skipNot) fun _ => rfl,
    rowDecodes_of_decodesAs (decodesAs_of_selectorF rfl decodeFamilyF_readDelay) fun _ => rfl,
    rowDecodes_of_decodesAs (decodesAs_of_selectorF rfl decodeFamilyF_keyWait) fun _ => rfl,
    rowDecodes_of_decodesAs (decodesAs_of_selectorF rfl decodeFamilyF_setDelay) fun _ => rfl,
    rowDecodes_of_decodesAs (decodesAs_of_selectorF rfl decodeFamilyF_setSound) fun _ => rfl,
    rowDecodes_of_decodesAs (decodesAs_of_selectorF rfl decodeFamilyF_addI) fun _ => rfl,
    rowDecodes_of_decodesAs (decodesAs_of_selectorF rfl decodeFamilyF_glyph) fun _ => rfl,
    rowDecodes_of_decodesAs (decodesAs_of_selectorF rfl decodeFamilyF_digits) fun _ => rfl,
    rowDecodes_of_decodesAs (decodesAs_of_selectorF rfl decodeFamilyF_store) fun _ => rfl,
    rowDecodes_of_decodesAs (decodesAs_of_selectorF rfl decodeFamilyF_load) fun _ => rfl, nofun⟩

/-- Two different rows differ in a bit that both masks compare. -/
theorem opcodeMap_rows_apart : ∀ r ∈ opcodeMap, ∀ r' ∈ opcodeMap, r.pattern &&& r'.mask = r'.pattern &&& r.mask → r' = r := by
  decide

/-- Settles O2: each row's words decode to its mnemonic, and a word in two rows would give their patterns the same bits
under both masks. -/
theorem decodeFollowsOpcodeMap : Obligations.DecodeFollowsOpcodeMap := by
  intro w r hr hw
  refine ⟨rowDecodes_of_mem hr w hw, fun r' hr' hw' => opcodeMap_rows_apart r hr r' hr' ?_⟩
  have hp : w &&& r.mask = r.pattern := beq_iff_eq.mp hw
  have hp' : w &&& r'.mask = r'.pattern := beq_iff_eq.mp hw'
  rw [← hp, ← hp', BitVec.and_assoc, BitVec.and_assoc, BitVec.and_comm r.mask]

/-! ## The words no row matches (R92) -/


theorem encodingRow : ∀ i : Instr, Laws.EncodingRow.Statement i
  | .cls => Laws.EncodingRow.cls
  | .ret => Laws.EncodingRow.ret
  | .jp a => Laws.EncodingRow.jp a
  | .call a => Laws.EncodingRow.call a
  | .seImm a b => Laws.EncodingRow.seImm a b
  | .sneImm a b => Laws.EncodingRow.sneImm a b
  | .seReg a b => Laws.EncodingRow.seReg a b
  | .ldImm a b => Laws.EncodingRow.ldImm a b
  | .addImm a b => Laws.EncodingRow.addImm a b
  | .ldReg a b => Laws.EncodingRow.ldReg a b
  | .orReg a b => Laws.EncodingRow.orReg a b
  | .andReg a b => Laws.EncodingRow.andReg a b
  | .xorReg a b => Laws.EncodingRow.xorReg a b
  | .addReg a b => Laws.EncodingRow.addReg a b
  | .sub a b => Laws.EncodingRow.sub a b
  | .shr a => Laws.EncodingRow.shr a
  | .subn a b => Laws.EncodingRow.subn a b
  | .shl a => Laws.EncodingRow.shl a
  | .sneReg a b => Laws.EncodingRow.sneReg a b
  | .ldI a => Laws.EncodingRow.ldI a
  | .jpV0 a => Laws.EncodingRow.jpV0 a
  | .rnd a b => Laws.EncodingRow.rnd a b
  | .drw a b c => Laws.EncodingRow.drw a b c
  | .skp a => Laws.EncodingRow.skp a
  | .sknp a => Laws.EncodingRow.sknp a
  | .ldVxDt a => Laws.EncodingRow.ldVxDt a
  | .ldVxK a => Laws.EncodingRow.ldVxK a
  | .ldDtVx a => Laws.EncodingRow.ldDtVx a
  | .ldStVx a => Laws.EncodingRow.ldStVx a
  | .addI a => Laws.EncodingRow.addI a
  | .ldF a => Laws.EncodingRow.ldF a
  | .ldB a => Laws.EncodingRow.ldB a
  | .stRegs a => Laws.EncodingRow.stRegs a
  | .ldRegs a => Laws.EncodingRow.ldRegs a

/-- An instruction's row compares only bits that are none of its don't-care fields. -/
theorem careMask_covers_row (i : Instr) :
    ∀ r ∈ opcodeMap, r.mnemonic = i.mnemonic → i.careMask &&& r.mask = r.mask := by
  cases i <;> simp only [Instr.mnemonic, Instr.careMask] <;> decide

/-- An accepted word matches the row of its instruction, since clearing the don't-care fields clears no compared bit. -/
theorem legalWord_of_decode {w : Word} {i : Instr} (h : decode w = .ok i) : legalWord w = true := by
  obtain ⟨r, hr, hname, hmatch⟩ := encodingRow i
  have hrow : (w &&& i.careMask) &&& r.mask = r.pattern := onlyIgnoredFieldsAreDropped w i h ▸ beq_iff_eq.mp hmatch
  rw [BitVec.and_assoc, careMask_covers_row i r hr hname] at hrow
  exact List.any_eq_true.mpr ⟨r, hr, beq_iff_eq.mpr hrow⟩

theorem decode_of_legalWord {w : Word} (h : legalWord w = true) : ∃ i, decode w = .ok i := by
  obtain ⟨r, hr, hw⟩ := List.any_eq_true.mp h
  obtain ⟨i, hi, -⟩ := rowDecodes_of_mem hr w hw
  exact ⟨i, hi⟩

/-! ### Each family with a selector rejects a word by its low byte, and for all other selectors than its own -/

theorem decodeFamily0_eq_error {w : Word} {e : DecodeReject} :
    decodeFamily0 w = .error e ↔ .opcodeNotFound (fieldNN w) = e ∧ fieldNN w ∉ [0xE0#8, 0xEE#8] := by
  unfold decodeFamily0; split <;> simp_all

theorem decodeFamily8_eq_error {w : Word} {e : DecodeReject} : decodeFamily8 w = .error e ↔
    .opcodeNotFound (fieldNN w) = e ∧ fieldN w ∈ [0x8#4, 0x9#4, 0xA#4, 0xB#4, 0xC#4, 0xD#4, 0xF#4] := by
  have hsel : ∀ n : BitVec 4, n ∈ [0x8#4, 0x9#4, 0xA#4, 0xB#4, 0xC#4, 0xD#4, 0xF#4] ↔
      n ∉ [0x0#4, 0x1#4, 0x2#4, 0x3#4, 0x4#4, 0x5#4, 0x6#4, 0x7#4, 0xE#4] := by decide
  rw [hsel]
  unfold decodeFamily8; split <;> simp_all

theorem decodeFamilyE_eq_error {w : Word} {e : DecodeReject} :
    decodeFamilyE w = .error e ↔ .opcodeNotFound (fieldNN w) = e ∧ fieldNN w ∉ [0x9E#8, 0xA1#8] := by
  unfold decodeFamilyE; split <;> simp_all

theorem decodeFamilyF_eq_error {w : Word} {e : DecodeReject} : decodeFamilyF w = .error e ↔
    .opcodeNotFound (fieldNN w) = e ∧
      fieldNN w ∉ [0x07#8, 0x0A#8, 0x15#8, 0x18#8, 0x1E#8, 0x29#8, 0x33#8, 0x55#8, 0x65#8] := by
  unfold decodeFamilyF; split <;> simp_all

/-- The words R92 lists. -/
def InRejectedFamily (w : Word) : Prop :=
  (fieldF w = 0x0 ∧ fieldNN w ∉ [0xE0#8, 0xEE#8]) ∨
  (fieldF w = 0x8 ∧ fieldN w ∈ [0x8#4, 0x9#4, 0xA#4, 0xB#4, 0xC#4, 0xD#4, 0xF#4]) ∨
  (fieldF w = 0xE ∧ fieldNN w ∉ [0x9E#8, 0xA1#8]) ∨
  (fieldF w = 0xF ∧ fieldNN w ∉ [0x07#8, 0x0A#8, 0x15#8, 0x18#8, 0x1E#8, 0x29#8, 0x33#8, 0x55#8, 0x65#8])

/-- Only the four families with a selector reject a word. -/
theorem decode_eq_error {w : Word} {e : DecodeReject} :
    decode w = .error e ↔ .opcodeNotFound (fieldNN w) = e ∧ InRejectedFamily w := by
  unfold InRejectedFamily
  rcases family_cases (fieldF w) with hf | hf | hf | hf | hf | hf | hf | hf | hf | hf | hf | hf | hf | hf | hf | hf
  · rw [decode_family0 hf, decodeFamily0_eq_error]; simp [hf]
  · rw [decode_family1 hf]; simp [hf]
  · rw [decode_family2 hf]; simp [hf]
  · rw [decode_family3 hf]; simp [hf]
  · rw [decode_family4 hf]; simp [hf]
  · rw [decode_family5 hf]; simp [hf]
  · rw [decode_family6 hf]; simp [hf]
  · rw [decode_family7 hf]; simp [hf]
  · rw [decode_family8 hf, decodeFamily8_eq_error]; simp [hf]
  · rw [decode_family9 hf]; simp [hf]
  · rw [decode_familyA hf]; simp [hf]
  · rw [decode_familyB hf]; simp [hf]
  · rw [decode_familyC hf]; simp [hf]
  · rw [decode_familyD hf]; simp [hf]
  · rw [decode_familyE hf, decodeFamilyE_eq_error]; simp [hf]
  · rw [decode_familyF hf, decodeFamilyF_eq_error]; simp [hf]

/-- A word is illegal exactly when the decoder rejects it, and then by its low byte. -/
theorem legalWord_eq_false_iff {w : Word} : legalWord w = false ↔ decode w = .error (.opcodeNotFound (fieldNN w)) := by
  cases h : decode w with
  | ok i => simp [legalWord_of_decode h]
  | error e =>
    have hillegal : legalWord w = false := Bool.eq_false_iff.mpr fun hl => by
      obtain ⟨i, hi⟩ := decode_of_legalWord hl
      exact absurd (h.symm.trans hi) nofun
    exact iff_of_true hillegal (congrArg _ (decode_eq_error.mp h).1.symm)

/-- Settles O3: the illegal words are those the decoder rejects, and it rejects those of the four families. -/
theorem unmatchedWordsAreRejected : Obligations.UnmatchedWordsAreRejected := fun _ =>
  ⟨legalWord_eq_false_iff.mp, legalWord_eq_false_iff.trans (decode_eq_error.trans (and_iff_right rfl))⟩

/-- Settles O5: eight closed words; `0FEE` and `5127` have a don't-care field set. -/
theorem specWordsDecodeAsWritten : Obligations.SpecWordsDecodeAsWritten := by
  unfold Obligations.SpecWordsDecodeAsWritten
  decide

end Sys2Proof.Machine
end

section
/-!
PROOFS. What an instruction can do (10_state.md R36, 60_exceptions.md R267, R269): the frames of the updates not met before,
then once for all instructions that each fails as the table says or makes one of a few changes, and from that the access
matrix, the table of failures and the state a fault leaves.
-/

namespace Sys2Proof.Machine

/-! ## Frames of the other updates -/

/-- Writing memory changes no other element. -/
theorem sameElement_writeBlock {e : Element} (he : e ≠ .memory) (s t : State) (a : Nat) (bs : List Byte) :
    SameElement e s (t.writeBlock a bs) ↔ SameElement e s t := by
  cases e with
  | memory => exact absurd rfl he
  | _ => exact Iff.rfl

/-- Replacing the display changes no other element. -/
theorem sameElement_setDisp {e : Element} (he : e ≠ .display) (s t : State) (d : Display) :
    SameElement e s (t.setDisp d) ↔ SameElement e s t := by
  cases e with
  | display => exact absurd rfl he
  | _ => exact Iff.rfl

/-- Writing the stack changes no other element. -/
theorem sameElement_setStack {e : Element} (he : e ≠ .stack) (s t : State) (sp : Fin (Config.stackDepth + 1))
    (k : Stack) : SameElement e s (t.setStack sp k) ↔ SameElement e s t := by
  cases e with
  | stack => exact absurd rfl he
  | _ => exact Iff.rfl

/-- A draw from the generator changes no other element. -/
theorem sameElement_countDraw {e : Element} (he : e ≠ .rng) (s t : State) :
    SameElement e s t.countDraw ↔ SameElement e s t := by
  cases e with
  | rng => exact absurd rfl he
  | _ => exact Iff.rfl

/-- Writing the keys changes no other element. -/
theorem sameElement_setKeys {e : Element} (he : e ≠ .keys) (s t : State) (k : Keys) :
    SameElement e s (t.setKeys k) ↔ SameElement e s t := by
  cases e with
  | keys => exact absurd rfl he
  | _ => exact Iff.rfl

section
variable {except : Element → Prop}

theorem sameBut_writeBlock (hm : except .memory) (s t : State) (a : Nat) (bs : List Byte) :
    SameBut except s (t.writeBlock a bs) ↔ SameBut except s t :=
  sameBut_congr hm (fun _ he => sameElement_writeBlock he s t a bs) rfl rfl

theorem sameBut_setDisp (hd : except .display) (s t : State) (d : Display) :
    SameBut except s (t.setDisp d) ↔ SameBut except s t :=
  sameBut_congr hd (fun _ he => sameElement_setDisp he s t d) rfl rfl

theorem sameBut_setStack (hk : except .stack) (s t : State) (sp : Fin (Config.stackDepth + 1)) (k : Stack) :
    SameBut except s (t.setStack sp k) ↔ SameBut except s t :=
  sameBut_congr hk (fun _ he => sameElement_setStack he s t sp k) rfl rfl

theorem sameBut_countDraw (hr : except .rng) (s t : State) : SameBut except s t.countDraw ↔ SameBut except s t :=
  sameBut_congr hr (fun _ he => sameElement_countDraw he s t) rfl rfl

theorem sameBut_setKeys (hk : except .keys) (s t : State) (k : Keys) :
    SameBut except s (t.setKeys k) ↔ SameBut except s t :=
  sameBut_congr hk (fun _ he => sameElement_setKeys he s t k) rfl rfl

/-- A new register file that agrees on the registers of the frame is within the frame. -/
theorem sameBut_setRegs {s : State} {v : Regs} (hv : ∀ r : Reg, ¬ except (.reg r) → v[r.val] = s.reg r) :
    SameBut except s (s.setRegs v) := by
  refine ⟨fun e he => ?_, rfl, rfl⟩
  cases e with
  | reg r => exact hv r he
  | stack | rng => exact ⟨rfl, rfl⟩
  | memory | display => exact fun _ => rfl
  | _ => rfl

theorem sameBut_setVF (hf : except (.reg regVF)) (s t : State) (b : Byte) :
    SameBut except s (t.setVF b) ↔ SameBut except s t := sameBut_setReg hf s t b

end

/-! ## The changes an instruction makes when it completes -/

/-- The changes instruction `i` can make to the elements, each within its columns of the access matrix. -/
inductive Change (i : Instr) (s : State) : State → Prop where
  /-- registers and `PC`: loads, arithmetic and control transfer -/
  | registers (v : Regs) (p : Word) (hv : ∀ r : Reg, ¬ mayWrite i (.reg r) → v[r.val] = s.reg r) :
    Change i s ((s.setRegs v).setPc p)
  | index (w : Word) (hi : mayWrite i .index) : Change i s (s.setI w)
  | delay (x : Reg) (hi : i = .ldDtVx x) : Change i s (s.setDt (s.reg x))
  | sound (x : Reg) (hi : i = .ldStVx x) : Change i s (s.setSt (s.reg x))
  | stack (sp : Fin (Config.stackDepth + 1)) (k : Stack) (p : Word) (hi : mayWrite i .stack) :
    Change i s ((s.setStack sp k).setPc p)
  /-- a block of bytes inside memory -/
  | memory (bs : List Byte) (hi : mayWrite i .memory) (hin : dataBase s + bs.length ≤ s.params.memSize) :
    Change i s (s.writeBlock (dataBase s) bs)
  | random (x : Reg) (b : Byte) (hx : mayWrite i (.reg x)) (hr : mayWrite i .rng) : Change i s (s.countDraw.setReg x b)
  | draw (x y : Nat) (sprite : List Byte) (d : Display) (c : Bool) (hd : mayWrite i .display)
    (hf : mayWrite i (.reg regVF)) (hdraw : drawSprite s.params x y sprite s.disp = .ok (d, c)) :
    Change i s ((s.setDisp d).setVF (flagOf c))
  | clear (hd : mayWrite i .display) : Change i s (s.setDisp clearDisplay)

theorem Change.refl (i : Instr) (s : State) : Change i s s := .registers s.v s.pc fun _ _ => rfl

theorem Change.setPc (i : Instr) (s : State) (p : Word) : Change i s (s.setPc p) := .registers s.v p fun _ _ => rfl

theorem Change.skipIf (i : Instr) (s : State) (c : Bool) : Change i s (s.skipIf c) := by
  cases c with
  | false => exact .refl i s
  | true => exact .setPc i s _

theorem Change.setReg {i : Instr} {s : State} {x : Reg} (b : Byte) (p : Word) (hx : mayWrite i (.reg x)) :
    Change i s ((s.setReg x b).setPc p) :=
  .registers _ p fun r hr => (State.reg_setReg s x r b).trans (if_neg fun h : r = x => hr (h ▸ hx))

theorem Change.setRegVF {i : Instr} {s : State} {x : Reg} (b flag : Byte) (hx : mayWrite i (.reg x))
    (hf : mayWrite i (.reg regVF)) : Change i s ((s.setReg x b).setVF flag) :=
  .registers _ s.pc fun r hr =>
    (State.reg_setVF (s.setReg x b) r flag).trans <| (if_neg fun h : r = regVF => hr (h ▸ hf)).trans <|
      (State.reg_setReg s x r b).trans (if_neg fun h : r = x => hr (h ▸ hx))

/-- What `FX65` loads leaves the registers past `V[x]` alone. -/
theorem Change.loadRegs (x : Reg) (s : State) :
    Change (.ldRegs x) s (s.setRegs (loadRange s (dataBase s) (rangeCount x) s.v)) := by
  refine .registers _ s.pc fun r hr => (getElem_loadRange s _ s.v r (rangeCount x) x.isLt).trans (if_neg fun h => ?_)
  exact hr ⟨r, Nat.le_of_lt_succ h, rfl⟩

section
variable {i : Instr} {s u : State}

/-- A change stays within the instruction's columns of the access matrix. -/
theorem Change.sameBut (h : Change i s u) : SameBut (mayWrite i) s u := by
  cases h with
  | registers v p hv => exact (sameBut_setPc ..).mpr (sameBut_setRegs hv)
  | index w hi => exact (sameBut_setI hi ..).mpr (sameBut_refl ..)
  | delay x hi => subst hi; exact (sameBut_setDt (by rfl) ..).mpr (sameBut_refl ..)
  | sound x hi => subst hi; exact (sameBut_setSt (by rfl) ..).mpr (sameBut_refl ..)
  | stack sp k p hi => exact (sameBut_setPc ..).mpr ((sameBut_setStack hi ..).mpr (sameBut_refl ..))
  | memory bs hi => exact (sameBut_writeBlock hi ..).mpr (sameBut_refl ..)
  | random x b hx hr => exact (sameBut_setReg hx ..).mpr ((sameBut_countDraw hr ..).mpr (sameBut_refl ..))
  | draw x y sprite d c hd hf => exact (sameBut_setVF hf ..).mpr ((sameBut_setDisp hd ..).mpr (sameBut_refl ..))
  | clear hd => exact (sameBut_setDisp hd ..).mpr (sameBut_refl ..)

/-! ## What an instruction answers -/

/-- The three ends of an instruction: the failure the table names, completion after a change, and, with parameters that the
constraints do not allow, an error of `DXYN`. -/
inductive Ends (i : Instr) (s : State) : Result → Prop where
  | fails (f : Failure) (hf : failureOf i s = some f) : Ends i s (raise f s)
  | completes (u : State) (hf : failureOf i s = none) (hu : Change i s u) : Ends i s (complete u)
  | unfit (e : EngineError) (hp : ¬ s.params.ok) : Ends i s (raise (.error e) s)

theorem ends_ret (s : State) : Ends .ret s (exec .ret s) := by
  show Ends .ret s (execRet s)
  by_cases h : s.sp.val = 0
  · rw [execRet_empty s h]
    exact .fails .stackUnderflow (if_pos h)
  · have hk : s.sp.val - 1 < 16 := by have : s.sp.val < 17 := s.sp.isLt; omega
    rw [execRet_pop s (s.sp.val - 1) hk (by omega)]
    exact .completes _ (if_neg h) (.stack _ _ _ rfl)

theorem ends_call (nnn : Addr12) (s : State) : Ends (.call nnn) s (exec (.call nnn) s) := by
  show Ends (.call nnn) s (execCall nnn s)
  by_cases h : s.sp.val < 16
  · rw [execCall_push nnn s h]
    exact .completes _ (if_neg (by omega)) (.stack _ _ _ rfl)
  · rw [execCall_full nnn s h]
    exact .fails .stackOverflow (if_pos (by have : s.sp.val < 17 := s.sp.isLt; omega))

/-- The three instructions that check a block and then complete. -/
theorem ends_checkBlock {n : Nat} (hu : dataBase s + n ≤ s.params.memSize → Change i s u)
    (hf : failureOf i s =
      if dataBase s + n > s.params.memSize then some (.memoryOutOfBounds (dataBase s + n)) else none) :
    Ends i s (checkBlock (dataBase s) n s (complete u)) := by
  rcases checkBlock_cases (dataBase s) n s (complete u) with ⟨h, he⟩ | ⟨h, he⟩
  · rw [he]
    exact .completes u (hf.trans (if_neg (by omega))) (hu h)
  · rw [he]
    exact .fails (.memoryOutOfBounds _) (hf.trans (if_pos h))

/-- The two skips on a key. -/
theorem ends_keyGet {x : Reg} {c : Bool → Bool}
    (hf : failureOf i s = if (s.reg x).toNat ≥ 16 then some (.error (.keyIndexOutOfBounds (s.reg x).toNat)) else none) :
    Ends i s (keyGet s (s.reg x).toNat fun down => complete (s.skipIf (c down))) := by
  rcases keyGet_cases s (s.reg x).toNat (fun down => complete (s.skipIf (c down))) with ⟨h, he⟩ | ⟨h, he⟩
  · rw [he]
    exact .completes _ (hf.trans (if_neg (Nat.not_le_of_lt h))) (.skipIf i s _)
  · rw [he]
    exact .fails _ (hf.trans (if_pos h))

theorem ends_drw (x y : Reg) (n : Fin 16) (s : State) : Ends (.drw x y n) s (exec (.drw x y n) s) := by
  show Ends (.drw x y n) s (execDrw x y n s)
  by_cases h : s.i.toNat + n.val ≤ s.params.memSize
  · have hf : failureOf (.drw x y n) s = none := if_neg (by omega)
    simp only [execDrw, dataBase, checkBlock_inside s _ h]
    cases hd : drawSprite s.params (s.reg x).toNat (s.reg y).toNat (s.readBlock s.i.toNat n.val) s.disp with
    | ok r => exact .completes _ hf (.draw _ _ _ r.1 r.2 (.inl rfl) (.inr rfl) hd)
    | error e =>
      refine .unfit e fun hp => ?_
      obtain ⟨d, c, hok⟩ := drawSprite_ok hp (s.reg x).toNat (s.reg y).toNat (s.readBlock s.i.toNat n.val) s.disp
      exact absurd (hd.symm.trans hok) nofun
  · rw [execDrw_outside x y n s h]
    exact .fails (.memoryOutOfBounds _) (if_pos (by omega))

theorem ends_ldVxK (x : Reg) (s : State) : Ends (.ldVxK x) s (exec (.ldVxK x) s) := by
  show Ends (.ldVxK x) s (execLdVxK x s)
  cases h : firstKeyDown s.keys with
  | none => rw [execLdVxK_wait x s h]; exact .completes _ rfl (.setPc _ s _)
  | some k => rw [execLdVxK_key x s k h]; exact .completes _ rfl (.setReg _ s.pc rfl)

/-- Every instruction ends in one of these ways. -/
theorem exec_ends (i : Instr) (s : State) : Ends i s (exec i s) := by
  cases i with
  | cls => exact .completes _ rfl (.clear rfl)
  | ret => exact ends_ret s
  | call nnn => exact ends_call nnn s
  | jp nnn | jpV0 nnn => exact .completes _ rfl (.setPc _ s _)
  | seImm x nn | sneImm x nn | seReg x y | sneReg x y => exact .completes _ rfl (.skipIf _ s _)
  | ldImm x nn | ldReg x y | orReg x y | andReg x y | xorReg x y | ldVxDt x =>
    exact .completes _ rfl (.setReg _ s.pc rfl)
  | addImm x nn | addReg x y | sub x y | shr x | subn x y | shl x =>
    exact .completes _ rfl (.setRegVF _ _ (.inl rfl) (.inr rfl))
  | ldI nnn | addI x | ldF x => exact .completes _ rfl (.index _ rfl)
  | rnd x nn => exact .completes _ rfl (.random x _ (.inl rfl) (.inr rfl))
  | drw x y n => exact ends_drw x y n s
  | skp x => exact ends_keyGet (x := x) (c := fun down => down) rfl
  | sknp x => exact ends_keyGet (x := x) (c := fun down => !down) rfl
  | ldVxK x => exact ends_ldVxK x s
  | ldDtVx x => exact .completes _ rfl (.delay x rfl)
  | ldStVx x => exact .completes _ rfl (.sound x rfl)
  | ldB x => exact ends_checkBlock (fun h => .memory _ rfl h) rfl
  | stRegs x => exact ends_checkBlock (fun h => .memory _ rfl (by rwa [length_regRange])) rfl
  | ldRegs x => exact ends_checkBlock (fun _ => .loadRegs x s) rfl

/-- An instruction that ends in a next state has made a change, but for the reply. -/
theorem change_of_next {t : State} (h : exec i s = .next t) : ∃ u r, t = u.setReply r ∧ Change i s u := by
  have hends := exec_ends i s
  generalize exec i s = res at h hends
  cases hends with
  | completes u hf hu => cases h; exact ⟨u, .ok, rfl, hu⟩
  | unfit e hp => cases h; exact ⟨s, .error e, rfl, .refl i s⟩
  | fails f hf =>
    cases f with
    | error e => cases h; exact ⟨s, .error e, rfl, .refl i s⟩
    | memoryOutOfBounds n | stackOverflow | stackUnderflow => cases h

/-- An instruction is never refused, and one that faults has changed nothing (R269). -/
theorem exec_next_or_fault (i : Instr) (s : State) :
    (∃ t, exec i s = .next t) ∨ ∃ f, exec i s = .fault f ∧ f.leftState = s := by
  have hends := exec_ends i s
  generalize exec i s = res at hends
  cases hends with
  | completes u hf hu => exact .inl ⟨_, rfl⟩
  | unfit e hp => exact .inl ⟨_, rfl⟩
  | fails f hf =>
    cases f with
    | error e => exact .inl ⟨_, rfl⟩
    | memoryOutOfBounds n | stackOverflow | stackUnderflow => exact .inr ⟨_, rfl, rfl⟩

theorem leftState_of_exec_fault {f : Fault} (h : exec i s = .fault f) : f.leftState = s := by
  rcases exec_next_or_fault i s with ⟨t, ht⟩ | ⟨g, hg, hleft⟩
  · exact absurd (h.symm.trans ht) nofun
  · cases h.symm.trans hg; exact hleft

theorem exec_ne_refused (i : Instr) (s : State) (r : Refusal) : exec i s ≠ .refused r := by
  rcases exec_next_or_fault i s with ⟨t, ht⟩ | ⟨g, hg, -⟩
  · rw [ht]; exact nofun
  · rw [hg]; exact nofun

end

/-! ## The obligations -/

/-- Settles O51: every change an instruction makes is within its columns, and the reply is no element. -/
theorem onlyMatrixElementsAreWritten : Obligations.OnlyMatrixElementsAreWritten := by
  intro i s t h
  obtain ⟨u, r, rfl, hu⟩ := change_of_next h
  exact (sameBut_setReply ..).mpr hu.sameBut

/-- Settles O52: an instruction completes where the table names no failure and raises the one it names, the state being the
one at dispatch; the third way to end needs parameters that the constraints do not allow. -/
theorem failuresAreExactlyTheTable : Obligations.FailuresAreExactlyTheTable := by
  intro i s hp
  have hends := exec_ends i s
  generalize exec i s = res at hends
  cases hends with
  | unfit e hp' => exact absurd hp hp'
  | completes u hf hu =>
    rw [hf]
    exact ⟨fun _ => ⟨_, rfl, rfl⟩, nofun, nofun, nofun, nofun⟩
  | fails f hf =>
    rw [hf]
    refine ⟨nofun, ?_, ?_, ?_, ?_⟩
    · rintro e ⟨⟩; rfl
    · rintro n ⟨⟩; rfl
    · rintro ⟨⟩; rfl
    · rintro ⟨⟩; rfl

end Sys2Proof.Machine
end

section
/-!
PROOFS. The invariant (10_state.md section 4, 00_scope.md R6): the reset state meets it, every transaction keeps it in the
state it ends in or that its fault leaves, and so does every sequence of transactions.
-/

namespace Sys2Proof.Machine

/-! ## Reset -/

theorem inv_resetWith {p : Params} (hp : p.ok) : (State.resetWith p).Inv :=
  ⟨hp, Memory.wf_nil p, Display.wf_nil p, fun _ => .inl rfl⟩

/-- Settles O55: at reset memory and the display list nothing, and every cell that is not listed reads as its default. -/
theorem resetStateMeetsInvariant : Obligations.ResetStateMeetsInvariant := by
  have hdefaults : Params.defaults.ok := by decide
  exact ⟨inv_resetWith hdefaults, fun _ => inv_resetWith⟩

/-! ## Instructions -/

/-- A change keeps the invariant: a block is written inside memory, and a draw toggles pixels inside the grid. -/
theorem Change.inv {i : Instr} {s u : State} (h : Change i s u) (hs : s.Inv) : u.Inv := by
  obtain ⟨hparams, hmem, hdisp, hbinary⟩ := hs
  cases h with
  | registers | index | delay | sound | stack | random => exact ⟨hparams, hmem, hdisp, hbinary⟩
  | memory bs hi hin => exact ⟨hparams, Memory.wf_writeBlock s.params bs s.mem _ hmem hin, hdisp, hbinary⟩
  | draw x y sprite d c hd hf hdraw =>
    obtain ⟨hdisp', hbinary'⟩ :=
      togglePixels_keeps _ (fun _ hq => inGrid_spritePixels hparams hq) s.disp false d c hdisp hbinary hdraw
    exact ⟨hparams, hmem, hdisp', hbinary'⟩
  | clear => exact ⟨hparams, hmem, Display.wf_nil _, fun _ => .inl rfl⟩

/-! ## Transactions -/

/-- The state meets the invariant and has the parameters of `s`. -/
def KeptFrom (s t : State) : Prop := t.Inv ∧ t.params = s.params

/-- The state a result ends in, or that its fault leaves, is kept from `s`. -/
def ResultKept (s : State) : Result → Prop
  | .next t => KeptFrom s t
  | .fault f => KeptFrom s f.leftState
  | .refused _ => True

section
variable {s : State}

theorem resultKept_exec (i : Instr) (hs : s.Inv) : ResultKept s (exec i s) := by
  cases h : exec i s with
  | next t =>
    obtain ⟨u, r, rfl, hu⟩ := change_of_next h
    obtain ⟨-, -, hparams⟩ := hu.sameBut
    exact ⟨hu.inv hs, hparams⟩
  | fault f =>
    have hleft := leftState_of_exec_fault h
    exact ⟨hleft ▸ hs, congrArg State.params hleft⟩
  | refused r => trivial

theorem resultKept_executeCycle (hs : s.Inv) : ResultKept s (executeCycle s) := by
  rcases executeCycle_cases s with ⟨-, h⟩ | ⟨-, r, -, h⟩ | ⟨-, i, -, h⟩ | ⟨-, -, i, -, -, h⟩ <;> rw [h]
  · exact ⟨hs, rfl⟩
  · exact ⟨hs, rfl⟩
  · exact resultKept_exec i (s := s.advance) hs
  · trivial

theorem resultKept_loadRom (image : List Byte) (hs : s.Inv) : ResultKept s (loadRom image s) := by
  obtain ⟨hparams, -, hdisp, hbinary⟩ := inv_resetWith hs.1
  have hstart : s.params.programStart ≤ s.params.memSize := by obtain ⟨-, h, -⟩ := hparams; exact h
  by_cases h : image.length ≤ s.params.memSize - s.params.programStart
  · rw [loadRom_fits image s h]
    have hmem := Memory.wf_writeBlock s.params image [] s.params.programStart (Memory.wf_nil _) (by omega)
    exact ⟨⟨hparams, hmem, hdisp, hbinary⟩, rfl⟩
  · rw [loadRom_tooLarge image s h]
    exact ⟨hs, rfl⟩

theorem resultKept_keyEvent (k : Nat) (down : Bool) (hs : s.Inv) : ResultKept s (keyEvent k down s) := by
  by_cases h : k < Config.numKeys
  · rw [keyEvent_inside k down s h]; exact ⟨hs, rfl⟩
  · rw [keyEvent_outside k down s h]; exact ⟨hs, rfl⟩

theorem resultKept_transact (a : Transaction) (hs : s.Inv) : ResultKept s (transact a s) := by
  cases a with
  | construct => exact ⟨inv_resetWith hs.1, rfl⟩
  | loadRom image => exact resultKept_loadRom image hs
  | executeCycle => exact resultKept_executeCycle hs
  | keyDown k => exact resultKept_keyEvent k true hs
  | keyUp k => exact resultKept_keyEvent k false hs
  | decrementTimer | getDisplay | isSoundActive | getWidth | getHeight => exact ⟨hs, rfl⟩

end

/-- Any finite part of any sequence of transactions. -/
theorem keptFrom_hostRun {t : State} (n : Nat) : ∀ (h : Nat → Transaction) (s : State), s.Inv →
    hostRun h n s = .next t → KeptFrom s t := by
  induction n with
  | zero => intro h s hs hrun; cases hrun; exact ⟨hs, rfl⟩
  | succ n ih =>
    intro h s hs hrun
    have hkept := resultKept_transact (h 0) hs
    unfold hostRun at hrun
    split at hrun
    next u hu =>
      obtain ⟨huinv, huparams⟩ : KeptFrom s u := by rwa [hu] at hkept
      obtain ⟨htinv, htparams⟩ := ih _ u huinv hrun
      exact ⟨htinv, htparams.trans huparams⟩
    next => cases hrun
    next => cases hrun

/-- Settles O54: a step is a transaction on a state that differs in the plan alone, and a sequence of transactions keeps
what each of them keeps. -/
theorem stepKeepsStateInvariant : Obligations.StepKeepsStateInvariant := by
  refine ⟨fun s hs => ?_, fun h n s t hs hrun => keptFrom_hostRun n h s hs hrun⟩
  have hkept : ResultKept s (step s) := resultKept_transact s.host.next.1 (s := s.setHost s.host.next.2) hs
  exact ⟨fun t ht => by rwa [ht] at hkept, fun f hf => by rwa [hf] at hkept⟩

end Sys2Proof.Machine
end

section
/-!
PROOFS. The cycle and the step (35_cycle.md, 50_host_interface.md section 1): what the fetch, the decoder and the host's plan
make of them, for every instruction at once.
-/

namespace Sys2Proof.Machine

/-! ## The cycle -/

/-- Settles O9: the fetch is checked before anything changes. -/
theorem fetchOutsideMemoryFaults : Obligations.FetchOutsideMemoryFaults := fun s h =>
  executeCycle_outside s (Nat.not_le_of_lt h)

/-- Settles O10: the decoder rejects an illegal word, after the advance, which changes `PC` alone. -/
theorem illegalWordRaisesOpcodeNotFound : Obligations.IllegalWordRaisesOpcodeNotFound := by
  intro s hin hillegal
  refine ⟨_, executeCycle_rejected s _ hin (legalWord_eq_false_iff.mp hillegal), rfl, rfl, ?_⟩
  exact (sameBut_setReply ..).mpr ((sameBut_setPc ..).mpr (sameBut_refl ..))

/-- Settles O53: what faults is the fetch, before the advance, or the instruction, after it; neither has changed anything. -/
theorem faultedCycleLeavesTabledState : Obligations.FaultedCycleLeavesTabledState := by
  intro s f h
  rcases executeCycle_cases s with ⟨hout, he⟩ | ⟨-, r, -, he⟩ | ⟨hin, i, -, he⟩ | ⟨-, -, i, -, -, he⟩ <;> rw [he] at h
  · cases h; exact .inl ⟨hout, rfl⟩
  · cases h
  · exact .inr ⟨hin, leftState_of_exec_fault h⟩
  · cases h

/-- A change leaves the keys alone. -/
theorem Change.keys_eq {i : Instr} {s u : State} (h : Change i s u) : u.keys = s.keys := by
  cases h <;> rfl

/-- A change to the delay timer is that of `FX15`. -/
theorem Change.dt_cases {i : Instr} {s u : State} (h : Change i s u) :
    u.dt = s.dt ∨ ∃ x, i = .ldDtVx x ∧ u.dt = s.reg x := by
  cases h with
  | delay x hi => exact .inr ⟨x, hi, rfl⟩
  | _ => exact .inl rfl

/-- A change to the sound timer is that of `FX18`. -/
theorem Change.st_cases {i : Instr} {s u : State} (h : Change i s u) :
    u.st = s.st ∨ ∃ x, i = .ldStVx x ∧ u.st = s.reg x := by
  cases h with
  | sound x hi => exact .inr ⟨x, hi, rfl⟩
  | _ => exact .inl rfl

/-- Settles O59: a cycle that ends in a next state has advanced and made one change, to a timer only that of `FX15` or
`FX18`. -/
theorem cyclesDoNotTickTimersOrMoveKeys : Obligations.CyclesDoNotTickTimersOrMoveKeys := by
  intro s t h
  rcases executeCycle_cases s with ⟨-, he⟩ | ⟨-, r, -, he⟩ | ⟨-, i, hi, he⟩ | ⟨-, -, i, -, -, he⟩ <;> rw [he] at h
  · cases h
  · cases h; exact ⟨rfl, .inl rfl, .inl rfl⟩
  · obtain ⟨u, r, rfl, hu⟩ := change_of_next h
    refine ⟨hu.keys_eq, hu.dt_cases.imp_right ?_, hu.st_cases.imp_right ?_⟩
    · rintro ⟨x, rfl, hx⟩; exact ⟨x, hi, hx⟩
    · rintro ⟨x, rfl, hx⟩; exact ⟨x, hi, hx⟩
  · cases h

/-! ### A jump to itself (70_reset_and_hazards.md R302) -/

theorem toNat_fieldNNN {p : Word} (hp : p.toNat ≤ 0x0FFF) : (fieldNNN p).toNat = p.toNat := by
  rw [fieldNNN, BitVec.extractLsb'_toNat, Nat.shiftRight_zero]
  exact Nat.mod_eq_of_lt (by omega)

/-- The jump to an address of 12 bits, as R302 writes it. -/
theorem encode_jp_fieldNNN {p : Word} (hp : p.toNat ≤ 0x0FFF) : encode (.jp (fieldNNN p)) = 0x1000 ||| p := by
  apply BitVec.eq_of_toNat_eq
  rw [encode, formatA, BitVec.toNat_append, toNat_fieldNNN hp, BitVec.toNat_or]
  rfl

theorem zextAddr_fieldNNN {p : Word} (hp : p.toNat ≤ 0x0FFF) : zextAddr (fieldNNN p) = p :=
  BitVec.eq_of_toNat_eq ((toNat_zextAddr _).trans (toNat_fieldNNN hp))

/-- Settles O60: the word at `PC` is the canonical spelling of the jump to `PC`, which undoes the advance. -/
theorem endedRunStaysWhereItIs : Obligations.EndedRunStaysWhereItIs := by
  rintro s ⟨hp, hin, hfetch⟩
  have hword : encode (.jp (fieldNNN s.pc)) = fetchWord s := (encode_jp_fieldNNN hp).trans hfetch.symm
  have hdecode : decode (fetchWord s) = .ok (.jp (fieldNNN s.pc)) := hword ▸ encodedInstructionDecodesBack _
  calc executeCycle s = complete (s.advance.setPc (zextAddr (fieldNNN s.pc))) :=
        executeCycle_decoded s _ hin hdecode (.inr hword)
    _ = .next (s.setReply .ok) := by rw [zextAddr_fieldNNN hp]; rfl

/-! ## The step -/

/-- Settles O7: one case for each way the plan can go on. -/
theorem stepAppliesNextTransaction : Obligations.StepAppliesNextTransaction :=
  ⟨fun _ _ _ hl => step_eq (HostPlan.next_listed hl), fun _ _ _ hl ha => step_eq (HostPlan.next_loop hl ha),
    fun _ hl ha => step_eq (HostPlan.next_free hl ha)⟩

/-- Settles O6: the step is the cycle of the plan, whose fetch does not see the plan; a plan of nothing but cycles is the same
after one of them. -/
theorem stepRunsDecodedInstruction : Obligations.StepRunsDecodedInstruction := by
  intro s i hin hdecode hstrict
  have hrun : ∀ h, s.host.next = (.executeCycle, h) → step s = exec i ((s.setHost h).setPc (s.pc + 2)) := fun h hn =>
    (step_eq hn).trans (executeCycle_decoded (s.setHost h) i hin hdecode hstrict)
  refine ⟨hrun, fun hl ha => ?_⟩
  have hsame : ({ s.host with listed := [] } : HostPlan) = s.host := hl ▸ rfl
  exact hrun s.host ((HostPlan.next_loop hl ha).trans (by rw [hsame]))

/-- Every transaction but the cycle ends in a next state. -/
theorem transact_next {a : Transaction} (ha : a ≠ .executeCycle) (s : State) : ∃ t, transact a s = .next t := by
  have hkey : ∀ k down, ∃ t, keyEvent k down s = .next t := fun k down => by unfold keyEvent; split <;> exact ⟨_, rfl⟩
  cases a with
  | executeCycle => exact absurd rfl ha
  | loadRom image =>
    show ∃ t, loadRom image s = .next t
    unfold loadRom; split <;> exact ⟨_, rfl⟩
  | keyDown k => exact hkey k true
  | keyUp k => exact hkey k false
  | construct | decrementTimer | getDisplay | isSoundActive | getWidth | getHeight => exact ⟨_, rfl⟩

theorem executeCycle_of_refused {a : Transaction} {s : State} {r : Refusal} (h : transact a s = .refused r) :
    a = .executeCycle := by
  by_contra ha
  obtain ⟨t, ht⟩ := transact_next ha s
  exact absurd (h.symm.trans ht) nofun

/-- Settles O56: a refusal is a cycle's, since every other transaction ends in a next state, and no instruction's. -/
theorem noStepIsRefused : Obligations.NoStepIsRefused := by
  have hrefused : ∀ (s : State) (a : Transaction) (r : Refusal), transact a s = .refused r →
      a = .executeCycle ∧ s.params.strictDecode = true ∧ s.pc.toNat + 2 ≤ s.params.memSize ∧
        r = .nonCanonicalWord (fetchWord s) ∧ ∃ i, decode (fetchWord s) = .ok i ∧ encode i ≠ fetchWord s := by
    intro s a r h
    obtain rfl := executeCycle_of_refused h
    replace h : executeCycle s = .refused r := h
    rcases executeCycle_cases s with ⟨-, he⟩ | ⟨-, _, -, he⟩ | ⟨-, i, -, he⟩ | ⟨hin, hs, i, hi, hne, he⟩ <;> rw [he] at h
    · cases h
    · cases h
    · exact absurd h (exec_ne_refused i s.advance r)
    · cases h; exact ⟨rfl, hs, hin, rfl, i, hi, hne⟩
  refine ⟨fun s r hstrict h => ?_, hrefused, fun s i hs hin hi hne => executeCycle_strict s i hin hi hs hne⟩
  obtain ⟨-, hs, -⟩ := hrefused _ _ r h
  exact absurd (hstrict.symm.trans hs) nofun

end Sys2Proof.Machine
end

section
/-!
PROOFS. What the engine does not read: the sound timer is read by no instruction (10_state.md R28), and the reply and the
host's plan, the model's own fields, by no transaction. From the latter, that steps and host sequences bring about the same
(50_host_interface.md R237).
-/

namespace Sys2Proof.Machine

/-! ## Other values in the fields that no instruction reads -/

/-- The state with other values in the sound timer, the reply and the host's plan. -/
def State.withUnread (s : State) (b : Byte) (r : Reply) (p : HostPlan) : State := ((s.setSt b).setReply r).setHost p

/-- Where the first result is a next state, the second is that state with its own sound timer and plan. -/
def Agrees (b : Byte) (p : HostPlan) (res res' : Result) : Prop :=
  ∀ t, res = .next t → res' = .next ((t.setSt b).setHost p)

section
variable (b : Byte) (r : Reply) (p : HostPlan)

theorem agrees_complete (u : State) : Agrees b p (complete u) (complete (u.withUnread b r p)) := by
  rintro t ⟨⟩; rfl

theorem agrees_raise (f : Failure) (u : State) : Agrees b p (raise f u) (raise f (u.withUnread b r p)) := by
  cases f with
  | error e => rintro t ⟨⟩; rfl
  | memoryOutOfBounds n | stackOverflow | stackUnderflow => exact nofun

theorem agrees_checkBlock {addr n : Nat} {s : State} {k k' : Result} (hk : Agrees b p k k') :
    Agrees b p (checkBlock addr n s k) (checkBlock addr n (s.withUnread b r p) k') := by
  rcases checkBlock_cases addr n s k with ⟨h, he⟩ | ⟨h, he⟩
  · rw [he, checkBlock_inside (s.withUnread b r p) k' h]; exact hk
  · rw [he]; exact nofun

theorem State.skipIf_withUnread (s : State) (c : Bool) :
    (s.withUnread b r p).skipIf c = (s.skipIf c).withUnread b r p := by
  cases c <;> rfl

theorem agrees_skipIf (s : State) (c : Bool) :
    Agrees b p (complete (s.skipIf c)) (complete ((s.withUnread b r p).skipIf c)) :=
  State.skipIf_withUnread b r p s c ▸ agrees_complete b r p (s.skipIf c)

theorem agrees_keyGet (s : State) (k : Nat) (c : Bool → Bool) :
    Agrees b p (keyGet s k fun down => complete (s.skipIf (c down)))
      (keyGet (s.withUnread b r p) k fun down => complete ((s.withUnread b r p).skipIf (c down))) := by
  by_cases h : k < Config.numKeys
  · rw [keyGet_inside s _ h, keyGet_inside (s.withUnread b r p) _ h]
    exact agrees_skipIf b r p s _
  · rw [keyGet_outside s _ h, keyGet_outside (s.withUnread b r p) _ h]
    exact agrees_raise b r p (.error _) s

theorem agrees_ret (s : State) : Agrees b p (execRet s) (execRet (s.withUnread b r p)) := by
  by_cases h : s.sp.val = 0
  · rw [execRet_empty s h]; exact nofun
  · have hk : s.sp.val - 1 < 16 := by have : s.sp.val < 17 := s.sp.isLt; omega
    have hsp : s.sp.val = s.sp.val - 1 + 1 := by omega
    rw [execRet_pop s _ hk hsp, execRet_pop (s.withUnread b r p) (s.sp.val - 1) hk hsp]
    exact agrees_complete b r p _

theorem agrees_call (nnn : Addr12) (s : State) : Agrees b p (execCall nnn s) (execCall nnn (s.withUnread b r p)) := by
  by_cases h : s.sp.val < Config.stackDepth
  · rw [execCall_push nnn s h, execCall_push nnn (s.withUnread b r p) h]
    exact agrees_complete b r p _
  · rw [execCall_full nnn s h]; exact nofun

theorem agrees_drw (x y : Reg) (n : Fin 16) (s : State) :
    Agrees b p (execDrw x y n s) (execDrw x y n (s.withUnread b r p)) := by
  refine agrees_checkBlock b r p ?_
  show Agrees b p _ (match drawSprite s.params (s.reg x).toNat (s.reg y).toNat (s.readBlock (dataBase s) n.val) s.disp with
    | .error e => raise (.error e) (s.withUnread b r p)
    | .ok (d, collision) => complete (((s.withUnread b r p).setDisp d).setVF (flagOf collision)))
  cases drawSprite s.params (s.reg x).toNat (s.reg y).toNat (s.readBlock (dataBase s) n.val) s.disp with
  | error e => exact agrees_raise b r p (.error e) s
  | ok res => exact agrees_complete b r p _

theorem agrees_ldVxK (x : Reg) (s : State) : Agrees b p (execLdVxK x s) (execLdVxK x (s.withUnread b r p)) := by
  cases h : firstKeyDown s.keys with
  | none =>
    rw [execLdVxK_wait x s h, execLdVxK_wait x (s.withUnread b r p) h]
    exact agrees_complete b r p _
  | some k =>
    rw [execLdVxK_key x s k h, execLdVxK_key x (s.withUnread b r p) k h]
    exact agrees_complete b r p _

theorem loadRange_withUnread (s : State) (base n : Nat) (v : Regs) :
    loadRange (s.withUnread b r p) base n v = loadRange s base n v := by
  induction n with
  | zero => rfl
  | succ n ih => exact congrArg (fun w => Vector.setIfInBounds w n (s.read (base + n))) ih

theorem agrees_ldRegs (x : Reg) (s : State) : Agrees b p (execLdRegs x s) (execLdRegs x (s.withUnread b r p)) := by
  refine agrees_checkBlock b r p ?_
  rw [loadRange_withUnread]
  exact agrees_complete b r p _

/-- No instruction reads the three fields; `FX18` alone writes one of them. -/
theorem agrees_exec {i : Instr} (hi : ¬ mayWrite i .sound) (s : State) :
    Agrees b p (exec i s) (exec i (s.withUnread b r p)) := by
  cases i with
  | ldStVx x => exact absurd rfl hi
  | ret => exact agrees_ret b r p s
  | call nnn => exact agrees_call b r p nnn s
  | seImm x nn | sneImm x nn | seReg x y | sneReg x y => exact agrees_skipIf b r p s _
  | drw x y n => exact agrees_drw b r p x y n s
  | skp x => exact agrees_keyGet b r p s _ fun down => down
  | sknp x => exact agrees_keyGet b r p s _ fun down => !down
  | ldVxK x => exact agrees_ldVxK b r p x s
  | ldRegs x => exact agrees_ldRegs b r p x s
  | ldB x | stRegs x => exact agrees_checkBlock b r p (agrees_complete b r p _)
  | _ => exact agrees_complete b r p _

end

/-- Only `FX18` writes the sound timer. -/
theorem mayWrite_sound_iff {i : Instr} : mayWrite i .sound ↔ ∃ x, i = .ldStVx x := by
  cases i <;> simp [mayWrite]

/-- Settles O58: `FX18` overwrites the sound timer, and every other instruction does the same whatever it holds. -/
theorem noInstructionReadsSoundTimer : Obligations.NoInstructionReadsSoundTimer := by
  intro i s t b h
  refine ⟨fun hi => ?_, fun hi => ?_⟩
  · obtain ⟨x, rfl⟩ := mayWrite_sound_iff.mp hi
    cases h; rfl
  · obtain ⟨-, hhost, -⟩ := onlyMatrixElementsAreWritten i s t h
    calc exec i (s.setSt b) = .next ((t.setSt b).setHost s.host) := agrees_exec b s.reply s.host hi s t h
      _ = .next (t.setSt b) := by rw [← hhost]; rfl

/-! ## The reply and the plan -/

theorem exec_setReply_setHost {i : Instr} {s t : State} (h : exec i s = .next t) (r : Reply) (p : HostPlan) :
    exec i ((s.setReply r).setHost p) = .next (t.setHost p) := by
  by_cases hi : mayWrite i .sound
  · obtain ⟨x, rfl⟩ := mayWrite_sound_iff.mp hi
    cases h; rfl
  · obtain ⟨hsame, -⟩ := onlyMatrixElementsAreWritten i s t h
    have hst : t.st = s.st := hsame .sound hi
    calc exec i ((s.setReply r).setHost p) = .next ((t.setSt s.st).setHost p) := agrees_exec s.st r p hi s t h
      _ = .next (t.setHost p) := by rw [← hst]; rfl

theorem executeCycle_setReply_setHost {s t : State} (h : executeCycle s = .next t) (r : Reply) (p : HostPlan) :
    executeCycle ((s.setReply r).setHost p) = .next (t.setHost p) := by
  by_cases hin : s.pc.toNat + 2 ≤ s.params.memSize
  · cases hd : decode (fetchWord s) with
    | error e =>
      rw [executeCycle_rejected s e hin hd] at h
      cases h
      exact executeCycle_rejected ((s.setReply r).setHost p) e hin hd
    | ok i =>
      by_cases hs : s.params.strictDecode = false ∨ encode i = fetchWord s
      · rw [executeCycle_decoded s i hin hd hs] at h
        exact (executeCycle_decoded ((s.setReply r).setHost p) i hin hd hs).trans (exec_setReply_setHost h r p)
      · obtain ⟨hstrict, hspell⟩ := not_or.mp hs
        rw [executeCycle_strict s i hin hd (Bool.eq_true_of_not_eq_false hstrict) hspell] at h
        cases h
  · rw [executeCycle_outside s hin] at h
    cases h

theorem loadRom_setReply_setHost {image : List Byte} {s t : State} (h : loadRom image s = .next t) (r : Reply)
    (p : HostPlan) : loadRom image ((s.setReply r).setHost p) = .next (t.setHost p) := by
  by_cases hfit : image.length ≤ s.params.memSize - s.params.programStart
  · rw [loadRom_fits image s hfit] at h
    cases h
    exact loadRom_fits image ((s.setReply r).setHost p) hfit
  · rw [loadRom_tooLarge image s hfit] at h
    cases h
    exact loadRom_tooLarge image ((s.setReply r).setHost p) hfit

theorem keyEvent_setReply_setHost {k : Nat} {down : Bool} {s t : State} (h : keyEvent k down s = .next t) (r : Reply)
    (p : HostPlan) : keyEvent k down ((s.setReply r).setHost p) = .next (t.setHost p) := by
  by_cases hk : k < Config.numKeys
  · rw [keyEvent_inside k down s hk] at h
    cases h
    exact keyEvent_inside k down ((s.setReply r).setHost p) hk
  · rw [keyEvent_outside k down s hk] at h
    cases h
    exact keyEvent_outside k down ((s.setReply r).setHost p) hk

/-- A transaction reads neither the reply nor the plan. -/
theorem transact_setReply_setHost {a : Transaction} {s t : State} (h : transact a s = .next t) (r : Reply)
    (p : HostPlan) : transact a ((s.setReply r).setHost p) = .next (t.setHost p) := by
  cases a with
  | executeCycle => exact executeCycle_setReply_setHost h r p
  | loadRom image => exact loadRom_setReply_setHost h r p
  | keyDown k => exact keyEvent_setReply_setHost h r p
  | keyUp k => exact keyEvent_setReply_setHost h r p
  | construct | decrementTimer | getDisplay | isSoundActive | getWidth | getHeight => cases h; rfl

theorem transact_setHost {a : Transaction} {s t : State} (h : transact a s = .next t) (p : HostPlan) :
    transact a (s.setHost p) = .next (t.setHost p) := transact_setReply_setHost h s.reply p

/-- A transaction keeps the plan: with the plan as it was put back, nothing changes. -/
theorem host_of_transact {a : Transaction} {s t : State} (h : transact a s = .next t) : t.host = s.host := by
  have hsame : transact a s = .next (t.setHost s.host) := transact_setHost h s.host
  have ht : t = t.setHost s.host := Host.Outcome.next.inj (h.symm.trans hsame)
  exact (congrArg State.host ht).trans (State.setHost_host t s.host)

theorem setHost_of_transact {a : Transaction} {s t : State} (h : transact a s = .next t) : t.setHost s.host = t := by
  rw [← host_of_transact h]; rfl

/-- Settles O57: the step's transaction does not read the reply, and keeps the plan that the step has moved on. -/
theorem earlierReplyNeverMatters : Obligations.EarlierReplyNeverMatters := by
  intro s t r h
  replace h : transact s.host.next.1 (s.setHost s.host.next.2) = .next t := h
  calc step (s.setReply r) = .next (t.setHost s.host.next.2) := transact_setReply_setHost h r s.host.next.2
    _ = .next t := congrArg _ (setHost_of_transact h)

/-! ## Steps and host sequences (50_host_interface.md R236, R237) -/

theorem hostRun_succ {h : Nat → Transaction} {n : Nat} {s u : State} (hu : transact (h 0) s = .next u) :
    hostRun h (n + 1) s = hostRun (fun k => h (k + 1)) n u := by
  simp only [hostRun, hu]

theorem run_succ {n : Nat} {s u : State} (hu : step s = .next u) :
    Host.Core.run Sys2Proof.core (n + 1) s = Host.Core.run Sys2Proof.core n u := by
  have hu' : Sys2Proof.core.step s = .next u := hu
  simp only [Host.Core.run, hu']

/-- A run that ends in a next state began with a transaction that did. -/
theorem exists_of_hostRun_succ {h : Nat → Transaction} {n : Nat} {s t : State} (hrun : hostRun h (n + 1) s = .next t) :
    ∃ u, transact (h 0) s = .next u ∧ hostRun (fun k => h (k + 1)) n u = .next t := by
  unfold hostRun at hrun
  split at hrun
  next u hu => exact ⟨u, hu, hrun⟩
  next => cases hrun
  next => cases hrun

/-- Steps that end in a next state began with a step that did. -/
theorem exists_of_run_succ {n : Nat} {s t : State} (hrun : Host.Core.run Sys2Proof.core (n + 1) s = .next t) :
    ∃ u, step s = .next u ∧ Host.Core.run Sys2Proof.core n u = .next t := by
  simp only [Host.Core.run] at hrun
  split at hrun
  next u hu => exact ⟨u, hu, hrun⟩
  next => cases hrun
  next => cases hrun

/-- No transaction of a sequence reads the plan. -/
theorem hostRun_setHost {n : Nat} : ∀ {h : Nat → Transaction} {s t : State}, hostRun h n s = .next t → ∀ p : HostPlan,
    hostRun h n (s.setHost p) = .next (t.setHost p) := by
  induction n with
  | zero => rintro h s t ⟨⟩ p; rfl
  | succ n ih =>
    intro h s t hrun p
    obtain ⟨u, hu, hrest⟩ := exists_of_hostRun_succ hrun
    exact (hostRun_succ (transact_setHost hu p)).trans (ih hrest p)

/-- Steps apply the transactions of the plan's sequence. -/
theorem hostRun_of_run {n : Nat} : ∀ {s t : State}, Host.Core.run Sys2Proof.core n s = .next t →
    hostRun s.host.seq n s = .next (t.setHost s.host) := by
  induction n with
  | zero => rintro s t ⟨⟩; rfl
  | succ n ih =>
    intro s t hrun
    obtain ⟨u, hu, hrest⟩ := exists_of_run_succ hrun
    have hplan : u.host = s.host.next.2 := host_of_transact hu
    have hfirst : transact (s.host.seq 0) s = .next (u.setHost s.host) := transact_setHost hu s.host
    have htail := hostRun_setHost (ih hrest) s.host
    rw [hplan] at htail
    exact (hostRun_succ hfirst).trans htail

/-- A plan that lists the transactions of a sequence first makes the steps apply them. -/
theorem run_of_hostRun {n : Nat} : ∀ {h : Nat → Transaction} {s t : State}, hostRun h n s = .next t →
    Host.Core.run Sys2Proof.core n
      (s.setHost { s.host with listed := (List.range n).map h ++ s.host.listed }) = .next t := by
  induction n with
  | zero => rintro h s t ⟨⟩; rfl
  | succ n ih =>
    intro h s t hrun
    obtain ⟨u, hu, hrest⟩ := exists_of_hostRun_succ hrun
    have hlisted : (List.range (n + 1)).map h ++ s.host.listed =
        h 0 :: ((List.range n).map (fun k => h (k + 1)) ++ s.host.listed) := by
      rw [List.range_succ_eq_map, List.map_cons, List.map_map]; rfl
    have hhost : u.host = s.host := host_of_transact hu
    have hnext := HostPlan.next_listed (h := { s.host with listed := (List.range (n + 1)).map h ++ s.host.listed }) hlisted
    have hstep := (step_eq (s := s.setHost _) hnext).trans (transact_setHost hu _)
    rw [run_succ hstep, ← hhost]
    exact ih hrest

/-- Settles O8: a step is the plan's next transaction and the plan stays out of what it does, so both directions are inductions
on the number of steps. -/
theorem stepsAdmitEveryHostSequence : Obligations.StepsAdmitEveryHostSequence :=
  ⟨fun _ _ _ => hostRun_of_run, fun _ _ _ _ => run_of_hostRun⟩

end Sys2Proof.Machine
end

section
/-!
PROOFS. The host's transactions (50_host_interface.md) but the cycle: what each leaves, and any number of ticks in a row.
-/

namespace Sys2Proof.Machine

/-! ## Reset and load (R240, R241) -/

theorem engineReset_resetWith (p : Params) : EngineReset (State.resetWith p) := by
  refine ⟨fun r => ?_, rfl, BitVec.toNat_ofNat .., rfl, fun k hk => ?_, rfl, rfl, fun _ => rfl, fun k hk => ?_, rfl⟩
  · exact Vector.getElem_replicate r.isLt
  · exact Vector.getElem_replicate hk
  · exact Vector.getElem_replicate hk

theorem memReset_eq (p : Params) (a : Nat) : p.memReset a = if a < p.numGlyphs * 5 then p.font.getD a 0 else 0 := by
  simp [Params.memReset, Config.fontBase, Config.glyphBytes]

/-- Settles O45: `construct` leaves the reset state but for the plan and the count of bytes drawn. -/
theorem constructGivesResetState : Obligations.ConstructGivesResetState :=
  ⟨fun p => ⟨engineReset_resetWith p, rfl, Memory.read_nil p⟩, memReset_eq,
    fun s => ⟨_, rfl, rfl, engineReset_resetWith s.params, Memory.read_nil s.params, rfl, rfl⟩⟩

/-- Settles O46: the image is a block written into reset memory, which is no other element. -/
theorem loadRomResetsAndPlacesImage : Obligations.LoadRomResetsAndPlacesImage := by
  refine ⟨fun s image hfit => ?_, fun s image hlarge => loadRom_tooLarge image s (Nat.not_le_of_lt hlarge)⟩
  refine ⟨_, loadRom_fits image s hfit, rfl, engineReset_resetWith s.params, rfl, rfl, fun a => ?_⟩
  exact State.read_writeBlock (resetEngine s) s.params.programStart a image

/-! ## Key events and reads (R246 to R250) -/

/-- A key event sets the level of one key. -/
theorem keyEvent_sets {k : Nat} (hk : k < Config.numKeys) (down : Bool) (s : State) :
    ∃ t, keyEvent k down s = .next t ∧ t.reply = .ok ∧ t.pc = s.pc ∧ SameBut (fun e => e = .keys) s t ∧
      ∀ j (hj : j < Config.numKeys), t.keys[j] = if j = k then down else s.keys[j] := by
  refine ⟨_, keyEvent_inside k down s hk, rfl, rfl, ?_, fun j hj => ?_⟩
  · exact (sameBut_setReply ..).mpr ((sameBut_setKeys (by rfl) ..).mpr (sameBut_refl ..))
  · simp only [State.setReply_keys, State.setKeys_keys, Vector.getElem_setIfInBounds, eq_comm]

/-- Settles O48: an event with a key below 16 sets that key's level, and one with another is refused; up after down is up. -/
theorem keyEventsSetOneLevel : Obligations.KeyEventsSetOneLevel := by
  refine ⟨fun s k hk => ⟨keyEvent_sets hk true s, keyEvent_sets hk false s⟩, fun s k hk => ?_, ?_⟩
  · have hout : ¬ k < Config.numKeys := Nat.not_lt_of_le hk
    exact ⟨keyEvent_outside k true s hout, keyEvent_outside k false s hout⟩
  · intro s t u k hk hup hdown hrelease
    obtain ⟨t', ht', -, -, -, hkeys⟩ := keyEvent_sets hk true s
    obtain ⟨u', hu', -, -, -, hkeys'⟩ := keyEvent_sets hk false t
    cases ht'.symm.trans hdown
    cases hu'.symm.trans hrelease
    refine Vector.ext fun j hj => ?_
    rw [hkeys' j hj, hkeys j hj]
    by_cases h : j = k
    · subst h; simp [hup]
    · simp [h]

/-- Settles O49: the cells are listed in index order, and a pixel inside the grid has its index below their number. -/
theorem displayReadsReturnCellsAndSize : Obligations.DisplayReadsReturnCellsAndSize := by
  intro s
  refine ⟨⟨s.disp.bytes s.params, rfl, ?_, fun x y hx hy => ?_⟩, rfl, rfl⟩
  · rw [Display.bytes, List.length_map, List.length_range, Params.displayCells]
  · exact Display.getD_bytes s.disp s.params _ (pixelIndex_lt hx hy)

/-- Settles O50: `ST` is 0 exactly when it is 0 as a number. -/
theorem soundIsActiveWhileTimerRuns : Obligations.SoundIsActiveWhileTimerRuns := by
  refine fun s => ⟨s.st != 0, rfl, ?_⟩
  rw [bne_iff_ne, ne_eq, ne_eq, BitVec.toNat_eq]
  rfl

/-! ## Ticks (R245) -/

theorem sameElement_trans {e : Element} {s t u : State} (h : SameElement e s t) (h' : SameElement e t u) :
    SameElement e s u := by
  cases e with
  | stack | rng => exact ⟨h'.1.trans h.1, h'.2.trans h.2⟩
  | memory | display => exact fun a => (h' a).trans (h a)
  | _ => exact Eq.trans h' h

/-- What `n` ticks leave: both timers lower by `n`, floored at 0, and everything else but the plan as it was. -/
structure TickedBy (n : Nat) (s t : State) : Prop where
  params : t.params = s.params
  dt : t.dt.toNat = s.dt.toNat - n
  st : t.st.toNat = s.st.toNat - n
  pc : t.pc = s.pc
  frame : ∀ e, e ≠ .delay → e ≠ .sound → SameElement e s t

theorem TickedBy.zero (s : State) : TickedBy 0 s s := ⟨rfl, rfl, rfl, rfl, fun e _ _ => sameElement_refl e s⟩

theorem TickedBy.trans {m n : Nat} {s t u : State} (h : TickedBy m s t) (h' : TickedBy n t u) : TickedBy (m + n) s u where
  params := h'.params.trans h.params
  dt := by rw [h'.dt, h.dt, Nat.sub_sub]
  st := by rw [h'.st, h.st, Nat.sub_sub]
  pc := h'.pc.trans h.pc
  frame e hd hs := sameElement_trans (h.frame e hd hs) (h'.frame e hd hs)

theorem tickedBy_decrementTimer (s : State) : ∃ t, decrementTimer s = .next t ∧ t.reply = .ok ∧ t.host = s.host ∧
    TickedBy 1 s t := by
  refine ⟨_, rfl, rfl, rfl, rfl, toNat_tick s.dt, toNat_tick s.st, rfl, fun e hd hs => ?_⟩
  rw [sameElement_setReply, sameElement_setSt hs, sameElement_setDt hd]
  exact sameElement_refl e s

theorem tickedBy_of_setHost {n : Nat} {s t : State} {p : HostPlan} (h : TickedBy n (s.setHost p) t) : TickedBy n s t where
  params := h.params
  dt := h.dt
  st := h.st
  pc := h.pc
  frame e hd hs := by
    have := h.frame e hd hs
    cases e <;> exact this

/-- The plan after `n` steps. -/
def HostPlan.dropped : Nat → HostPlan → HostPlan
  | 0, h => h
  | n + 1, h => dropped n h.next.2

theorem HostPlan.dropped_replicate {a : Transaction} (n : Nat) : ∀ {h : HostPlan}, h.listed = List.replicate n a →
    dropped n h = { h with listed := [] } := by
  induction n with
  | zero => intro h hl; rw [← (show h.listed = [] from hl)]; rfl
  | succ n ih =>
    intro h hl
    have hnext : h.next = (a, { h with listed := List.replicate n a }) := next_listed hl
    rw [dropped, hnext]
    exact ih rfl

theorem HostPlan.dropped_loop {a : Transaction} {h : HostPlan} (hl : h.listed = []) (ha : h.after = .loop a [])
    (n : Nat) : dropped n h = h := by
  have hnext : h.next = (a, h) := by rw [next_loop hl ha, ← hl]
  induction n with
  | zero => rfl
  | succ n ih => rw [dropped, hnext]; exact ih

theorem run_ticks {n : Nat} : ∀ {s : State}, (∀ k, k < n → s.host.seq k = .decrementTimer) →
    ∃ t, Host.Core.run Sys2Proof.core n s = .next t ∧ t.host = s.host.dropped n ∧ TickedBy n s t := by
  induction n with
  | zero => exact fun {s} _ => ⟨s, rfl, rfl, .zero s⟩
  | succ n ih =>
    intro s hseq
    obtain ⟨u, hu, -, hhost, hticked⟩ := tickedBy_decrementTimer (s.setHost s.host.next.2)
    have hnext : s.host.next.1 = .decrementTimer := hseq 0 n.succ_pos
    have hstep : step s = .next u := by rw [step, hnext]; exact hu
    have hrest : ∀ k, k < n → u.host.seq k = .decrementTimer := fun k hk => by
      rw [hhost]; exact hseq (k + 1) (Nat.succ_lt_succ hk)
    obtain ⟨t, ht, hthost, htticked⟩ := ih hrest
    refine ⟨t, (run_succ hstep).trans ht, ?_, ?_⟩
    · rw [hthost, hhost]; rfl
    · rw [Nat.add_comm]; exact (tickedBy_of_setHost hticked).trans htticked

/-- Settles O47: one tick is the transaction, and `n` steps are `n` of them as long as the plan has no other next; the plan is
then what is left of it. -/
theorem ticksLowerBothTimersToZero : Obligations.TicksLowerBothTimersToZero := by
  refine ⟨fun s => ?_, fun n s hseq => ?_⟩
  · obtain ⟨t, ht, hreply, hhost, hticked⟩ := tickedBy_decrementTimer s
    refine ⟨t, ht, hreply, hticked.dt, hticked.st, hticked.pc, fun e he => ?_, hhost, hticked.params⟩
    obtain ⟨hd, hs⟩ := not_or.mp he
    exact hticked.frame e hd hs
  · obtain ⟨t, ht, hhost, hticked⟩ := run_ticks hseq
    exact ⟨t, ht, hticked.params, fun hl => hhost.trans (HostPlan.dropped_replicate n hl),
      fun hl ha => hhost.trans (HostPlan.dropped_loop hl ha n), hticked.dt, hticked.st, hticked.pc, hticked.frame⟩

end Sys2Proof.Machine
end

section
/-!
PROOFS. The random generator (44_keys_timers_random.md R224, R225): the seeded slots, and one generation step in plain
arithmetic.
-/

namespace Sys2Proof.Machine

/-! ## Seeding (R224) -/

/-- The constant is 31 bits and a 1 below them. -/
theorem rngC_odd : Config.rngC.toNat % 2 = 1 := by
  have h : Config.rngC.toNat = Config.rngCHigh.toNat * 2 + 1 := by
    rw [Config.rngC, BitVec.toNat_append, ← Nat.shiftLeft_add_eq_or_of_lt (by decide), Nat.shiftLeft_eq]; rfl
  omega

theorem history_rngSeeded (k : Nat) (hk : k < Config.rngN) : rngSeeded.history[k] = seedWord k := Vector.getElem_ofFn hk

/-- Settles O43: slot by slot. -/
theorem generatorIsSeededFromFixedSeed : Obligations.GeneratorIsSeededFromFixedSeed := by
  refine ⟨rngC_odd, ?_, ?_, ?_, fun k hk h3 => ?_⟩
  · rw [history_rngSeeded]; rfl
  · rw [history_rngSeeded]; exact BitVec.toNat_add ..
  · rw [history_rngSeeded, seedWord, BitVec.toNat_add, BitVec.toNat_add]; omega
  · rw [history_rngSeeded]
    obtain ⟨j, rfl⟩ := Nat.exists_eq_add_of_le' h3
    rfl

/-! ## One step (R225) -/

/-- The 64-bit product and sum at slot `k`. -/
def stepProduct (a : Word64) (g : Rng) (k : Fin Config.rngN) : Word64 :=
  a * (g.history[k.val]).setWidth 64 + g.carry.setWidth 64

theorem toNat_stepProduct (a : Word64) (g : Rng) (k : Fin Config.rngN) :
    (stepProduct a g k).toNat = (a.toNat * (g.history[k.val]).toNat + g.carry.toNat) % 2 ^ 64 := by
  have hq : (g.history[k.val]).toNat < 2 ^ 64 := Nat.lt_trans (BitVec.isLt _) (by decide)
  have hc : g.carry.toNat < 2 ^ 64 := Nat.lt_trans (BitVec.isLt _) (by decide)
  simp only [stepProduct, BitVec.toNat_add, BitVec.toNat_mul, BitVec.toNat_setWidth, Nat.mod_eq_of_lt hq,
    Nat.mod_eq_of_lt hc, Nat.mod_add_mod]

/-- The upper half of a product. -/
def highHalf (t : Word64) : Word32 := (t >>> 32).setWidth 32

/-- The halves of a product added, which can wrap. -/
def halvesSum (t : Word64) : Word32 := t.setWidth 32 + highHalf t

theorem toNat_highHalf (t : Word64) : (highHalf t).toNat = t.toNat / 2 ^ 32 := by
  rw [highHalf, BitVec.toNat_setWidth, BitVec.toNat_ushiftRight, Nat.shiftRight_eq_div_pow]
  exact Nat.mod_eq_of_lt (by have := t.isLt; omega)

theorem toNat_halvesSum (t : Word64) : (halvesSum t).toNat = (t.toNat % 2 ^ 32 + t.toNat / 2 ^ 32) % 2 ^ 32 := by
  rw [halvesSum, BitVec.toNat_add, toNat_highHalf, BitVec.toNat_setWidth]

/-- The test `x < carry` says whether the addition passed 2^32. -/
theorem halvesSum_lt_iff (t : Word64) :
    (halvesSum t).toNat < (highHalf t).toNat ↔ 2 ^ 32 ≤ t.toNat % 2 ^ 32 + t.toNat / 2 ^ 32 := by
  have := t.isLt
  rw [toNat_halvesSum, toNat_highHalf]
  omega

/-- The candidate, one more when the addition wrapped. -/
def candidate (t : Word64) : Word32 := if (halvesSum t).toNat < (highHalf t).toNat then halvesSum t + 1 else halvesSum t

/-- The new carry, one more when the addition wrapped. -/
def newCarry (t : Word64) : Word32 := if (halvesSum t).toNat < (highHalf t).toNat then highHalf t + 1 else highHalf t

theorem toNat_newCarry_of_lt {t : Word64} (h : t.toNat % 2 ^ 32 + t.toNat / 2 ^ 32 < 2 ^ 32) :
    (newCarry t).toNat = t.toNat / 2 ^ 32 := by
  rw [newCarry, if_neg (mt (halvesSum_lt_iff t).mp (Nat.not_le_of_lt h)), toNat_highHalf]

theorem toNat_newCarry_of_le {t : Word64} (h : 2 ^ 32 ≤ t.toNat % 2 ^ 32 + t.toNat / 2 ^ 32) :
    (newCarry t).toNat = (t.toNat / 2 ^ 32 + 1) % 2 ^ 32 := by
  rw [newCarry, if_pos ((halvesSum_lt_iff t).mpr h), BitVec.toNat_add, toNat_highHalf]; rfl

theorem toNat_candidate_of_lt {t : Word64} (h : t.toNat % 2 ^ 32 + t.toNat / 2 ^ 32 < 2 ^ 32) :
    (candidate t).toNat = t.toNat % 2 ^ 32 + t.toNat / 2 ^ 32 := by
  rw [candidate, if_neg (mt (halvesSum_lt_iff t).mp (Nat.not_le_of_lt h)), toNat_halvesSum, Nat.mod_eq_of_lt h]

theorem toNat_candidate_of_le {t : Word64} (h : 2 ^ 32 ≤ t.toNat % 2 ^ 32 + t.toNat / 2 ^ 32) :
    (candidate t).toNat = t.toNat % 2 ^ 32 + t.toNat / 2 ^ 32 - 2 ^ 32 + 1 := by
  have ht : t.toNat < 2 ^ 64 := t.isLt
  have hone : (1 : Word32).toNat = 1 := rfl
  rw [candidate, if_pos ((halvesSum_lt_iff t).mpr h), BitVec.toNat_add, toNat_halvesSum, hone]
  omega

theorem toNat_max_sub (max x : Word32) : (max - x).toNat = (max.toNat + 2 ^ 32 - x.toNat) % 2 ^ 32 := by
  have := x.isLt
  rw [BitVec.toNat_sub]
  congr 1
  omega

/-- The index of the next step. -/
def nextIndex (g : Rng) : Fin Config.rngN := ⟨(g.idx.val + 1) % Config.rngN, Nat.mod_lt _ (by decide)⟩

/-- A step stores the maximum minus the candidate in the slot at the next index and answers it. -/
theorem generatorStep_eq (a : Word64) (max : Word32) (g : Rng) :
    generatorStep a max g =
      ({ history := g.history.set (nextIndex g).val (max - candidate (stepProduct a g (nextIndex g)))
         carry := newCarry (stepProduct a g (nextIndex g))
         idx := nextIndex g },
        max - candidate (stepProduct a g (nextIndex g))) := by
  simp only [candidate, newCarry, generatorStep, decide_eq_true_eq]
  rfl

/-- Settles O44: the step stores its output in one slot; whether the halves' sum wrapped decides between the two forms of the
candidate and the carry. -/
theorem generatorStepMultipliesWithCarry : Obligations.GeneratorStepMultipliesWithCarry := by
  refine ⟨fun _ => rfl, fun a max g k hk hkidx t g' out ht hstep => ?_⟩
  subst hkidx
  have hprod : (stepProduct a g (nextIndex g)).toNat = t := (toNat_stepProduct a g _).trans ht.symm
  rw [generatorStep_eq] at hstep
  obtain ⟨rfl, rfl⟩ := Prod.mk.inj hstep
  refine ⟨rfl, Vector.getElem_set_self (nextIndex g).isLt,
    fun j hj hne => Vector.getElem_set_ne (nextIndex g).isLt hj hne.symm, fun h => ?_, fun h => ?_⟩
  · rw [← hprod] at h ⊢
    exact ⟨toNat_newCarry_of_lt h, (toNat_max_sub ..).trans (by rw [toNat_candidate_of_lt h])⟩
  · rw [← hprod] at h ⊢
    exact ⟨toNat_newCarry_of_le h, (toNat_max_sub ..).trans (by rw [toNat_candidate_of_le h])⟩

end Sys2Proof.Machine
end

section
/-!
PROOFS. Control flow (40_control_flow.md): call and return, the skips on two registers and the jump with an offset.
-/

namespace Sys2Proof.Machine

/-- Settles O16: with an address held the return writes the stack pointer and `PC`, and it changes no slot. -/
theorem returnPopsAddress : Obligations.ReturnPopsAddress := by
  refine ⟨decodesAs_of_selector0 rfl decodeFamily0_return, fun s k hk hsp => ?_, execRet_empty⟩
  refine endsOk_of_complete (u := (s.setStack ⟨k, by omega⟩ s.stack).setPc s.stack[k]) (execRet_pop s k hk hsp) ?_
    ⟨rfl, rfl, rfl⟩
  exact (sameBut_setPc ..).mpr ((sameBut_setStack (by rfl) ..).mpr (sameBut_refl ..))

/-- Settles O18: with a slot free the call writes that slot, the stack pointer and `PC`. -/
theorem callPushesReturnAddress : Obligations.CallPushesReturnAddress := by
  refine ⟨decodesAs_of_family decode_family2, fun s nnn hsp => ?_,
    fun s nnn hsp => execCall_full nnn s (Nat.not_lt_of_le hsp.ge)⟩
  refine endsOk_of_complete
    (u := (s.setStack ⟨s.sp.val + 1, Nat.succ_lt_succ hsp⟩ (s.stack.set s.sp.val s.pc)).setPc (zextAddr nnn))
    (execCall_push nnn s hsp) ?_ ⟨rfl, toNat_zextAddr nnn, fun k hk => ?_⟩
  · exact (sameBut_setPc ..).mpr ((sameBut_setStack (by rfl) ..).mpr (sameBut_refl ..))
  · simp only [State.setReply_stack, State.setPc_stack, State.setStack_stack, Vector.getElem_set, eq_comm]

/-- Settles O19: a call that did not fault left its return address in the slot the return reads. -/
theorem returnUndoesCall : Obligations.ReturnUndoesCall := by
  intro s t nnn p h
  replace h : execCall nnn s = .next t := h
  by_cases hsp : s.sp.val < Config.stackDepth
  · rw [execCall_push nnn s hsp] at h
    cases h
    refine ⟨_, execRet_pop _ s.sp.val hsp rfl, ?_, rfl⟩
    exact Vector.getElem_set_self hsp
  · rw [execCall_full nnn s hsp] at h
    cases h

/-- Settles O21: families 5 and 9 are the two skips, N being no operand, and a skip writes `PC` alone, by its condition. -/
theorem skipOnRegisterComparison : Obligations.SkipOnRegisterComparison := by
  refine ⟨decodesAs_of_family decode_family5, decodesAs_of_family decode_family9, fun s x y => ⟨?_, ?_⟩⟩
  · refine endsOk_of_complete (u := s.skipIf (s.reg x == s.reg y)) rfl ((sameBut_skipIf ..).mpr (sameBut_refl ..)) ?_
    simp only [State.setReply_pc, State.skipIf_pc, beq_iff_eq]
  · refine endsOk_of_complete (u := s.skipIf (s.reg x != s.reg y)) rfl ((sameBut_skipIf ..).mpr (sameBut_refl ..)) ?_
    simp only [State.setReply_pc, State.skipIf_pc, bne_iff_ne, ne_eq, ite_not]

/-- Settles O22: the sum of 12 bits and 8 bits stays below 2^16, so the addition to `PC` does not wrap. -/
theorem jumpWithOffsetAddsV0 : Obligations.JumpWithOffsetAddsV0 := by
  refine ⟨decodesAs_of_family decode_familyB, fun s nnn => ?_⟩
  refine endsOk_of_complete (u := s.setPc (zextAddr nnn + zextByte (s.reg 0))) rfl
    ((sameBut_setPc ..).mpr (sameBut_refl ..)) ?_
  have hnnn := nnn.isLt
  have hv := (s.reg 0).isLt
  show (zextAddr nnn + zextByte (s.reg 0)).toNat = _
  rw [toNat_add_zextByte, toNat_zextAddr]
  exact Nat.mod_eq_of_lt (by omega)

end Sys2Proof.Machine
end

section
/-!
PROOFS. Arithmetic (41_load_and_alu.md): the operations that write a register and a flag, and the bitwise ones, which write no
flag.
-/

namespace Sys2Proof.Machine

/-- An instruction that writes a result and then a flag ends `Ok` with both, here read as numbers: the flag whatever `x` is,
the result unless the flag overwrites it. -/
theorem endsOk_of_writeResultAndFlag {i : Instr} {s : State} {x : Reg} {r flag : Byte} {n m : Nat}
    (hexec : exec i s = writeResultAndFlag x r flag s) (hn : r.toNat = n) (hm : flag.toNat = m) :
    EndsOk i s (fun e => e = .reg x ∨ e = .reg regVF) (fun t =>
      t.pc = s.pc ∧ (x ≠ regVF → (t.reg x).toNat = n) ∧ (t.reg regVF).toNat = m) := by
  refine endsOk_of_complete hexec ?_ ⟨rfl, fun hx => ?_, ?_⟩
  · exact (sameBut_setVF (.inr rfl) ..).mpr ((sameBut_setReg (.inl rfl) ..).mpr (sameBut_refl ..))
  · rw [State.setReply_reg, State.reg_setVF, if_neg hx, State.reg_setReg, if_pos rfl, hn]
  · rw [State.setReply_reg, State.reg_setVF, if_pos rfl, hm]

/-! ### The flags and results as numbers -/

theorem toNat_carryFlag (a b : Byte) : (carryFlag a b).toNat = if a.toNat + b.toNat > 255 then 1 else 0 := by
  rw [carryFlag_eq]; split <;> rfl

theorem toNat_noBorrowFlag (a b : Byte) : (noBorrowFlag a b).toNat = if a.toNat ≥ b.toNat then 1 else 0 := by
  rw [noBorrowFlag_eq]; split <;> rfl

theorem toNat_msbFlag (a : Byte) : (msbFlag a).toNat = if a.toNat ≥ 128 then 128 else 0 := by
  rw [msbFlag_eq]; split <;> rfl

theorem toNat_sub_byte (a b : Byte) : (a - b).toNat = (a.toNat + 256 - b.toNat) % 256 := by
  have := b.isLt
  rw [BitVec.toNat_sub]
  congr 1
  omega

theorem toNat_half (a : Byte) : (a >>> 1).toNat = a.toNat / 2 := BitVec.toNat_ushiftRight a 1

theorem toNat_double (a : Byte) : (a <<< 1).toNat = a.toNat * 2 % 256 := by
  rw [BitVec.toNat_shiftLeft, Nat.shiftLeft_eq]

/-! ### The obligations -/

/-- Settles O24: family 7 is the addition, whose flag is that of the exact sum. -/
theorem addImmediateWritesSumAndOverflow : Obligations.AddImmediateWritesSumAndOverflow :=
  ⟨decodesAs_of_family decode_family7, fun s x nn =>
    endsOk_of_writeResultAndFlag rfl (BitVec.toNat_add ..) (toNat_carryFlag (s.reg x) nn)⟩

/-- Settles O27: selector 4 of family 8 is the addition, whose operands are read before the flag is written. -/
theorem addRegistersWritesSumAndCarry : Obligations.AddRegistersWritesSumAndCarry :=
  ⟨decodesAs_of_operation rfl decodeFamily8_add, fun s x y =>
    endsOk_of_writeResultAndFlag rfl (BitVec.toNat_add ..) (toNat_carryFlag (s.reg x) (s.reg y))⟩

/-- Settles O28: selectors 5 and 7 of family 8 are the two subtractions, one with the operands of the other exchanged. -/
theorem subtractionsWriteDifferenceAndNoBorrow : Obligations.SubtractionsWriteDifferenceAndNoBorrow :=
  ⟨decodesAs_of_operation rfl decodeFamily8_sub, decodesAs_of_operation rfl decodeFamily8_subn, fun s x y =>
    ⟨endsOk_of_writeResultAndFlag rfl (toNat_sub_byte ..) (toNat_noBorrowFlag (s.reg x) (s.reg y)),
      endsOk_of_writeResultAndFlag rfl (toNat_sub_byte ..) (toNat_noBorrowFlag (s.reg y) (s.reg x))⟩⟩

/-- Settles O29: selector 6 of family 8 is the shift, Y being no operand. -/
theorem shiftRightWritesHalfAndLowBit : Obligations.ShiftRightWritesHalfAndLowBit :=
  ⟨decodesAs_of_operation rfl decodeFamily8_shr, fun s x =>
    endsOk_of_writeResultAndFlag rfl (toNat_half _) (toNat_lsbFlag (s.reg x))⟩

/-- Settles O30: selector E of family 8 is the shift, Y being no operand, and its flag is not normalised. -/
theorem shiftLeftWritesDoubleAndRawHighBit : Obligations.ShiftLeftWritesDoubleAndRawHighBit :=
  ⟨decodesAs_of_operation rfl decodeFamily8_shl, fun s x =>
    endsOk_of_writeResultAndFlag rfl (toNat_double _) (toNat_msbFlag (s.reg x))⟩

/-- What holds at the end of an instruction may be weakened. -/
theorem EndsOk.imp {i : Instr} {s : State} {except : Element → Prop} {post post' : State → Prop}
    (h : EndsOk i s except post) (hpost : ∀ t, post t → post' t) : EndsOk i s except post' := by
  obtain ⟨t, hexec, hreply, hframe, ht⟩ := h
  exact ⟨t, hexec, hreply, hframe, hpost t ht⟩

/-- An instruction that is one register write ends `Ok` with the bits of that byte in `V[x]`. -/
theorem endsOk_bits_of_writeResult {i : Instr} {s : State} {x : Reg} {b : Byte} {bit : Nat → Bool}
    (hexec : exec i s = writeResult x b s) (hbit : ∀ k, b.getLsbD k = bit k) :
    EndsOk i s (fun e => e = .reg x) (fun t => t.pc = s.pc ∧ ∀ k, (t.reg x).getLsbD k = bit k) := by
  refine (endsOk_of_writeResult hexec).imp ?_
  rintro t ⟨hpc, rfl⟩
  exact ⟨hpc, hbit⟩

/-- Settles O26: selectors 1, 2 and 3 of family 8 are the three operations, each one register write. -/
theorem bitwiseOperationsWriteRegister : Obligations.BitwiseOperationsWriteRegister :=
  ⟨decodesAs_of_operation rfl decodeFamily8_or, decodesAs_of_operation rfl decodeFamily8_and,
    decodesAs_of_operation rfl decodeFamily8_xor, fun _ _ _ =>
    ⟨endsOk_bits_of_writeResult rfl fun _ => BitVec.getLsbD_or, endsOk_bits_of_writeResult rfl fun _ => BitVec.getLsbD_and,
      endsOk_bits_of_writeResult rfl fun _ => BitVec.getLsbD_xor⟩⟩

end Sys2Proof.Machine
end

section
/-!
PROOFS. Keys and the random byte (44_keys_timers_random.md).
-/

namespace Sys2Proof.Machine

/-- Settles O39: with a key index the two skips test that key's level and write `PC` alone; with another they hand the error
to the host. -/
theorem keySkipsTestOneKey : Obligations.KeySkipsTestOneKey := by
  refine ⟨decodesAs_of_selectorE rfl decodeFamilyE_skip, decodesAs_of_selectorE rfl decodeFamilyE_skipNot,
    fun s x hk => ⟨?_, ?_⟩, fun s x hk => ?_⟩
  · refine endsOk_of_complete (execSkp_inside x s hk) ((sameBut_skipIf ..).mpr (sameBut_refl ..)) ?_
    simp only [State.setReply_pc, State.skipIf_pc]
  · refine endsOk_of_complete (execSknp_inside x s hk) ((sameBut_skipIf ..).mpr (sameBut_refl ..)) ?_
    rw [State.setReply_pc, State.skipIf_pc]
    cases s.keys[(s.reg x).toNat] <;> rfl
  · have hout : ¬ (s.reg x).toNat < Config.numKeys := Nat.not_lt_of_le hk
    exact ⟨execSkp_outside x s hout, execSknp_outside x s hout⟩

/-- Settles O40: selector `0A` of family F is the wait; the scan of the keys decides whether `PC` goes back alone or the
lowest key goes to the register. -/
theorem keyWaitTakesLowestKeyDown : Obligations.KeyWaitTakesLowestKeyDown := by
  refine ⟨decodesAs_of_selectorF rfl decodeFamilyF_keyWait, fun s x hup => ?_, fun s x k hk hdown hlow => ?_⟩
  · exact endsOk_of_complete (execLdVxK_wait x s (firstKeyDown_none s.keys hup))
      ((sameBut_setPc ..).mpr (sameBut_refl ..)) rfl
  · refine endsOk_of_complete (execLdVxK_key x s k (firstKeyDown_some s.keys k hk hdown hlow)) ?_ ⟨rfl, ?_⟩
    · exact (sameBut_setPc ..).mpr ((sameBut_setReg (by rfl) ..).mpr (sameBut_refl ..))
    · have hk' : k < 16 := hk
      rw [State.setReply_reg, State.setPc_reg, State.reg_setReg, if_pos rfl, BitVec.toNat_ofNat]
      omega

/-- Settles O42: family C is the draw under the mask; the generator's call and the register are all it writes. -/
theorem randomByteIsMasked : Obligations.RandomByteIsMasked := by
  refine ⟨decodesAs_of_family decode_familyC, fun s x nn => ?_⟩
  refine endsOk_of_complete (u := s.countDraw.setReg x (drawnByte s &&& nn)) rfl ?_ ?_
  · exact (sameBut_setReg (.inl rfl) ..).mpr ((sameBut_countDraw (.inr rfl) ..).mpr (sameBut_refl ..))
  · have hreg : ((s.countDraw.setReg x (drawnByte s &&& nn)).setReply .ok).reg x = drawnByte s &&& nn := by
      rw [State.setReply_reg, State.reg_setReg, if_pos rfl]
    refine ⟨rfl, hreg, ?_, fun k hk => ?_, rfl, rfl⟩
    · rw [hreg, BitVec.toNat_and]; exact Nat.and_le_right
    · rw [hreg, BitVec.getLsbD_and, hk, Bool.and_false]

end Sys2Proof.Machine
end

section
/-!
PROOFS. The index register and memory (42_index_and_memory.md, 20_memory.md): the glyph address, the block instructions, and
a stored word fetched as code.
-/

namespace Sys2Proof.Machine

/-- Settles O33: selector `29` of family F is the load of a glyph's address. -/
theorem pointToGlyphMultipliesByFive : Obligations.PointToGlyphMultipliesByFive :=
  ⟨decodesAs_of_selectorF rfl decodeFamilyF_glyph, fun s x => endsOk_of_setI rfl (toNat_glyphAddr (s.reg x))⟩

/-! ## Stores (R166, R167) -/

/-- An instruction that is one block write ends `Ok`, and outside the block every byte reads as before. -/
theorem endsOk_of_writeBlock {i : Instr} {s : State} {bs : List Byte} {post : State → Prop}
    (hexec : exec i s = .next ((s.writeBlock (dataBase s) bs).setReply .ok))
    (hpost : post ((s.writeBlock (dataBase s) bs).setReply .ok)) : EndsOk i s (fun e => e = .memory) post :=
  endsOk_of_complete hexec ((sameBut_writeBlock (by rfl) ..).mpr (sameBut_refl ..)) hpost

theorem read_writeBlock_outside {s : State} {a k : Nat} {bs : List Byte} (h : k < a ∨ a + bs.length ≤ k) :
    (s.writeBlock a bs).read k = s.read k := by
  rw [State.read_writeBlock, if_neg (by omega)]

theorem read_writeBlock_inside {s : State} {a k : Nat} {bs : List Byte} (h : k < bs.length) :
    (s.writeBlock a bs).read (a + k) = bs.getD k 0 := by
  rw [State.read_writeBlock, if_pos (by omega), Nat.add_sub_cancel_left]

theorem toNat_digit {n : Nat} (h : n < 256) : (BitVec.ofNat 8 n).toNat = n := Nat.mod_eq_of_lt h

/-- Settles O34: selector `33` of family F stores the block of the three digits, each below 10. -/
theorem storeDecimalDigits : Obligations.StoreDecimalDigits := by
  refine ⟨decodesAs_of_selectorF rfl decodeFamilyF_digits, fun s x hin => ?_,
    fun s x hout => execLdB_outside x s (Nat.not_le_of_lt hout)⟩
  have hv : (s.reg x).toNat < 256 := (s.reg x).isLt
  have hread : ∀ k, k < 3 → (s.writeBlock (dataBase s) (bcdDigits (s.reg x))).read (dataBase s + k) =
      (bcdDigits (s.reg x)).getD k 0 := fun k hk => read_writeBlock_inside hk
  refine endsOk_of_writeBlock (execLdB_inside x s hin) ⟨rfl, ?_, ?_, ?_, fun a ha => read_writeBlock_outside ha⟩
  · exact (congrArg BitVec.toNat (hread 0 (by decide))).trans (toNat_digit (by omega))
  · exact (congrArg BitVec.toNat (hread 1 (by decide))).trans (toNat_digit (by omega))
  · exact (congrArg BitVec.toNat (hread 2 (by decide))).trans (toNat_digit (by omega))

/-- A register in the stored range is the byte at its place in the block. -/
theorem read_writeBlock_regRange {s : State} {x r : Reg} (h : r ≤ x) (a : Nat) :
    (s.writeBlock a (regRange s x)).read (a + r.val) = s.reg r := by
  rw [read_writeBlock_inside (by rw [length_regRange]; exact Nat.lt_succ_of_le h), getD_regRange s x r h]

/-- Settles O35: selector `55` of family F stores the block of the registers up to `V[X]`. -/
theorem storeRegistersWritesBlock : Obligations.StoreRegistersWritesBlock := by
  refine ⟨decodesAs_of_selectorF rfl decodeFamilyF_store, fun s x hin => ?_,
    fun s x hout => execStRegs_outside x s (Nat.not_le_of_lt hout)⟩
  refine endsOk_of_writeBlock (execStRegs_inside x s hin)
    ⟨rfl, fun r hr => read_writeBlock_regRange hr _, fun a ha => read_writeBlock_outside ?_⟩
  rwa [length_regRange]

/-- A store that ends in a next state was inside memory and wrote the block. -/
theorem exec_stRegs_next {s t : State} {x : Reg} (h : exec (.stRegs x) s = .next t) :
    dataBase s + rangeCount x ≤ s.params.memSize ∧
      t = (s.writeBlock (dataBase s) (regRange s x)).setReply .ok := by
  replace h : execStRegs x s = .next t := h
  by_cases hin : dataBase s + rangeCount x ≤ s.params.memSize
  · rw [execStRegs_inside x s hin] at h
    cases h
    exact ⟨hin, rfl⟩
  · rw [execStRegs_outside x s hin] at h
    cases h

/-! ## Loads (R168) -/

theorem reg_loadRange (s : State) (x r : Reg) (v : Regs) :
    (loadRange s (dataBase s) (rangeCount x) v)[r.val] = if r ≤ x then s.read (dataBase s + r.val) else v[r.val] := by
  rw [getElem_loadRange s (dataBase s) v r (rangeCount x) x.isLt]
  exact if_congr Nat.lt_succ_iff rfl rfl

/-- Settles O36: selector `65` of family F replaces the registers up to `V[X]` by the block's bytes. -/
theorem loadRegistersReadsBlock : Obligations.LoadRegistersReadsBlock := by
  refine ⟨decodesAs_of_selectorF rfl decodeFamilyF_load, fun s x hin => ?_,
    fun s x hout => execLdRegs_outside x s (Nat.not_le_of_lt hout)⟩
  refine endsOk_of_complete (execLdRegs_inside x s hin) (Change.loadRegs x s).sameBut ⟨rfl, fun r hr => ?_⟩
  exact (reg_loadRange s x r s.v).trans (if_pos hr)

/-- Settles O37: the store leaves `I`, so the load reads the block just written. -/
theorem loadRestoresStoredRegisters : Obligations.LoadRestoresStoredRegisters := by
  intro s t x v h
  obtain ⟨hin, rfl⟩ := exec_stRegs_next h
  refine ⟨_, execLdRegs_inside x _ hin, fun r => ⟨fun hr => ?_, fun hr => ?_⟩⟩
  · exact (reg_loadRange _ x r v).trans ((if_pos hr).trans (read_writeBlock_regRange hr (dataBase s)))
  · exact (reg_loadRange _ x r v).trans (if_neg (Fin.not_le.mpr hr))

/-! ## Code in memory (20_memory.md R51, R62) -/

theorem toNat_wordOfBytes (hi lo : Byte) : (wordOfBytes hi lo).toNat = hi.toNat * 256 + lo.toNat := by
  rw [wordOfBytes, BitVec.toNat_append, ← Nat.shiftLeft_add_eq_or_of_lt lo.isLt, Nat.shiftLeft_eq]

/-- Settles O38: the two bytes the fetch reads are those of two neighbouring registers of the stored block. -/
theorem storedBytesAreFetchedAsCode : Obligations.StoredBytesAreFetchedAsCode := by
  intro s t x r q p h hq hqx hp
  obtain ⟨-, rfl⟩ := exec_stRegs_next h
  have hrx : r ≤ x := le_trans (Fin.le_def.mpr (by omega)) hqx
  have hhi : (s.writeBlock (dataBase s) (regRange s x)).read p.toNat = s.reg r := by
    rw [hp]; exact read_writeBlock_regRange hrx (dataBase s)
  have hlo : (s.writeBlock (dataBase s) (regRange s x)).read (p.toNat + 1) = s.reg q := by
    rw [hp, Nat.add_assoc, ← hq]; exact read_writeBlock_regRange hqx (dataBase s)
  simp only [fetchWord, toNat_wordOfBytes, State.setPc_pc, State.setPc_read, State.setReply_read, hhi, hlo]

/-! ### The reading aid `withFetchWord` (log 27) -/

/-- The state with a word's bytes stored where the next cycle fetches. -/
def State.withWordAtFetch (s : State) (w : Word) : State :=
  (s.setPc (fetchPlace s)).writeBlock (fetchPlace s).toNat [(bytesOfWord w).1, (bytesOfWord w).2]

theorem withFetchWord_eq (s : State) (nbits w : Nat) :
    s.withFetchWord nbits w = (s.withWordAtFetch (tableWord nbits w)).setHost s.host.withCycleFirst := rfl

theorem fetchWord_withWordAtFetch (s : State) (w : Word) : fetchWord (s.withWordAtFetch w) = w := by
  have hhi : (s.withWordAtFetch w).read (fetchPlace s).toNat = (bytesOfWord w).1 :=
    read_writeBlock_inside (k := 0) Nat.two_pos
  have hlo : (s.withWordAtFetch w).read ((fetchPlace s).toNat + 1) = (bytesOfWord w).2 :=
    read_writeBlock_inside (k := 1) Nat.one_lt_two
  have hpc : (s.withWordAtFetch w).pc = fetchPlace s := rfl
  rw [fetchWord, hpc, hhi, hlo, wordOfBytes_bytesOfWord]

theorem decode_of_decodeTableWord {nbits w : Nat} {i : Instr} (h : decodeTableWord nbits w = some i) :
    decode (tableWord nbits w) = .ok i := by
  rw [decodeTableWord_eq] at h
  cases hd : decode (tableWord nbits w) with
  | error e => rw [hd] at h; cases h
  | ok j => rw [hd] at h; cases h; rfl

/-- Settles O11: the plan has a cycle next, and its fetch reads the two bytes stored at `PC`. -/
theorem placedWordIsTheNextInstruction : Obligations.PlacedWordIsTheNextInstruction := by
  intro s nbits w i hdecode hp hfits hstrict
  have hfetch := fetchWord_withWordAtFetch s (tableWord nbits w)
  have hcycle : executeCycle (s.withWordAtFetch (tableWord nbits w)) =
      exec i (s.withWordAtFetch (tableWord nbits w)).advance := by
    refine executeCycle_decoded _ i (fetchPlace_fits s hp hfits) ?_ ?_
    · rw [hfetch]; exact decode_of_decodeTableWord hdecode
    · rw [hfetch]; exact hstrict
  refine ⟨s.withWordAtFetch (tableWord nbits w), rfl, rfl, ?_⟩
  rw [withFetchWord_eq]
  exact (step_eq (s := State.setHost _ _) (HostPlan.next_withCycleFirst s.host)).trans hcycle

end Sys2Proof.Machine
end

section
/-!
PROOFS. The display (43_display.md): clearing, drawing once and twice, and the bounds-checked accessors.
-/

namespace Sys2Proof.Machine

/-- Settles O12: the words of family 0 with selector `E0` clear the display, and a clear display holds 0 in every cell. -/
theorem clearTurnsEveryPixelOff : Obligations.ClearTurnsEveryPixelOff := by
  refine ⟨decodesAs_of_selector0 rfl decodeFamily0_clear, fun s => ?_⟩
  exact endsOk_of_complete (u := s.setDisp clearDisplay) rfl ((sameBut_setDisp (by rfl) ..).mpr (sameBut_refl ..))
    ⟨rfl, fun _ => rfl⟩

/-! ## The set bits of a sprite on one pixel (R184, R186) -/

theorem mem_spriteBits {n : Nat} {rc : Nat × Nat} : rc ∈ spriteBits n ↔ rc.1 < n ∧ rc.2 < 8 := by
  simp [spriteBits, Prod.ext_iff]

theorem nodup_spriteBits (n : Nat) : (spriteBits n).Nodup := List.nodup_range.product List.nodup_range

theorem bitCovers_iff {s : State} {x y : Reg} {px py : Nat} {rc : Nat × Nat} : BitCovers s x y px py rc = true ↔
    (s.read (s.i.toNat + rc.1)).getLsbD (7 - rc.2) = true ∧ px = ((s.reg x).toNat + rc.2) % s.params.displayWidth ∧
      py = ((s.reg y).toNat + rc.1) % s.params.displayHeight := by
  simp only [BitCovers, Bool.and_eq_true, beq_iff_eq, and_assoc]

theorem one_le_coverCount_iff (s : State) (x y : Reg) (n px py : Nat) :
    1 ≤ coverCount s x y n px py ↔ SpriteCovers s x y n px py := by
  refine List.countP_pos_iff.trans ⟨?_, ?_⟩
  · rintro ⟨⟨r, c⟩, hmem, hcovers⟩
    obtain ⟨hr, hc⟩ := mem_spriteBits.mp hmem
    exact ⟨r, c, hr, hc, bitCovers_iff.mp hcovers⟩
  · rintro ⟨r, c, hr, hc, hcovers⟩
    exact ⟨(r, c), mem_spriteBits.mpr ⟨hr, hc⟩, bitCovers_iff.mpr hcovers⟩

/-- Offsets below the modulus that reach the same coordinate are equal. -/
theorem eq_of_add_mod_eq {v a b m : Nat} (ha : a < m) (hb : b < m) (h : (v + a) % m = (v + b) % m) : a = b :=
  (Nat.ModEq.add_left_cancel' v h).eq_of_lt_of_lt ha hb

/-- On a display at least 8 wide and `n` high two bits of the sprite never share a pixel. -/
theorem bitCovers_unique {s : State} {x y : Reg} {n px py : Nat} {a b : Nat × Nat} (hp : s.params.ok)
    (hn : n ≤ s.params.displayHeight) (ha : a ∈ spriteBits n) (hb : b ∈ spriteBits n)
    (hca : BitCovers s x y px py a = true) (hcb : BitCovers s x y px py b = true) : a = b := by
  obtain ⟨-, -, -, hw, -⟩ := hp
  obtain ⟨hra, hcola⟩ := mem_spriteBits.mp ha
  obtain ⟨hrb, hcolb⟩ := mem_spriteBits.mp hb
  obtain ⟨-, hxa, hya⟩ := bitCovers_iff.mp hca
  obtain ⟨-, hxb, hyb⟩ := bitCovers_iff.mp hcb
  have hrow : a.1 = b.1 := eq_of_add_mod_eq (by omega) (by omega) (hya.symm.trans hyb)
  have hcol : a.2 = b.2 := eq_of_add_mod_eq (by omega) (by omega) (hxa.symm.trans hxb)
  exact Prod.ext hrow hcol

/-- At most one element of a list without duplicates meets a condition that no two of its elements share. -/
theorem countP_le_one {α : Type} [DecidableEq α] {l : List α} {p : α → Bool} (hl : l.Nodup)
    (h : ∀ a ∈ l, ∀ b ∈ l, p a = true → p b = true → a = b) : l.countP p ≤ 1 := by
  rcases Nat.eq_zero_or_pos (l.countP p) with h0 | hpos
  · omega
  · obtain ⟨a, ha, hpa⟩ := List.countP_pos_iff.mp hpos
    calc l.countP p ≤ l.count a := List.countP_mono_left fun b hb hpb => beq_iff_eq.mpr (h b hb a ha hpb hpa)
      _ ≤ 1 := List.nodup_iff_count_le_one.mp hl a

theorem coverCount_le_one {s : State} (x y : Reg) {n : Nat} (px py : Nat) (hp : s.params.ok)
    (hn : n ≤ s.params.displayHeight) : coverCount s x y n px py ≤ 1 :=
  countP_le_one (nodup_spriteBits n) fun _ ha _ hb => bitCovers_unique hp hn ha hb

theorem inGrid_of_covered {s : State} {x y : Reg} {n px py : Nat} (hp : s.params.ok)
    (h : 1 ≤ coverCount s x y n px py) : InGrid s.params (px, py) := by
  obtain ⟨-, -, -, hw, hh, -⟩ := hp
  obtain ⟨r, c, -, -, -, rfl, rfl⟩ := (one_le_coverCount_iff ..).mp h
  exact ⟨Nat.mod_lt _ (by omega), Nat.mod_lt _ hh⟩

/-! ## Drawing once (R187, R189) -/

theorem flagOf_eq_one_iff (c : Bool) : flagOf c = 1 ↔ c = true := by cases c <;> decide

/-- `VF` after a draw is the flag of the collision. -/
theorem reg_regVF_drawn (s : State) (d : Display) (c : Bool) :
    (((s.setDisp d).setVF (flagOf c)).setReply .ok).reg regVF = flagOf c := by
  rw [State.setReply_reg, State.reg_setVF, if_pos rfl]

/-- Settles O13: inside memory the draw toggles each pixel of the grid as often as it is covered, and reports in `VF` whether a
covering bit met a lit pixel. -/
theorem drawTogglesCoveredPixels : Obligations.DrawTogglesCoveredPixels := by
  refine ⟨decodesAs_of_family decode_familyD, fun s x y n hp hin => ?_,
    fun s x y n px py hp => ⟨one_le_coverCount_iff s x y n px py, coverCount_le_one x y px py hp⟩,
    fun s x y n hout => execDrw_outside x y n s (Nat.not_le_of_lt hout)⟩
  obtain ⟨d, c, hexec, hgrid, hrest, hcollision⟩ := execDrw_result x y n s hp hin
  refine endsOk_of_complete (u := (s.setDisp d).setVF (flagOf c)) hexec ?_
    ⟨rfl, fun px py hx hy => hgrid px py ⟨hx, hy⟩, fun k hk => hrest k fun px py hg => ?_, ?_, ?_⟩
  · exact (sameBut_setVF (.inr rfl) ..).mpr ((sameBut_setDisp (.inl rfl) ..).mpr (sameBut_refl ..))
  · exact (Nat.lt_of_lt_of_le (pixelIndex_lt hg.1 hg.2) hk).ne
  · rw [reg_regVF_drawn]; cases c <;> decide
  · rw [reg_regVF_drawn, flagOf_eq_one_iff]; exact hcollision

/-! ## Drawing twice (R190) -/

/-- `DXYN` that ends in a next state was inside memory. -/
theorem inside_of_exec_drw {s t : State} {x y : Reg} {n : Fin 16} (h : exec (.drw x y n) s = .next t) :
    s.i.toNat + n.val ≤ s.params.memSize := by
  by_contra hout
  exact absurd (h.symm.trans (execDrw_outside x y n s hout)) nofun

/-- Toggling a cell, as many times as the count says. -/
def toggled (count : Nat) (b : Byte) : Byte := if count % 2 = 1 then b ^^^ 1 else b

theorem toggled_toggled (count : Nat) (b : Byte) : toggled count (toggled count b) = b := by
  unfold toggled
  split
  · rw [BitVec.xor_assoc, BitVec.xor_self, BitVec.xor_zero]
  · rfl

theorem xor_one_eq_iff (b : Byte) : (b ^^^ 1 = 1 ↔ b = 0) ∧ (b ^^^ 1 = 0 ↔ b = 1) := by revert b; decide

/-- The second draw collides on a pixel under a bit that was unlit, or under several bits that held 0 or 1. -/
theorem collides_again_iff (count : Nat) (b : Byte) :
    (1 ≤ count ∧ toggled count b = 1) ∨ (2 ≤ count ∧ toggled count b = 0) ↔
      (1 ≤ count ∧ b = 0) ∨ (2 ≤ count ∧ b = 1) := by
  unfold toggled
  split
  · rw [(xor_one_eq_iff b).1, (xor_one_eq_iff b).2]
  · have htwo : 1 ≤ count ↔ 2 ≤ count := by omega
    rw [htwo, or_comm]

/-- Settles O14: both draws cover each pixel equally often, and toggling twice as often is toggling not at all; the second
collides where the first left a covered pixel lit. -/
theorem drawingTwiceRestoresDisplay : Obligations.DrawingTwiceRestoresDisplay := by
  intro s t u x y n hp h h'
  have hin := inside_of_exec_drw h
  obtain ⟨d, c, hexec, hgrid, hrest, -⟩ := execDrw_result x y n s hp hin
  cases h.symm.trans hexec
  obtain ⟨d', c', hexec', hgrid', hrest', hcollision⟩ :=
    execDrw_result x y n ((((s.setDisp d).setVF (flagOf c)).setReply .ok).setRegs s.v) hp hin
  cases h'.symm.trans hexec'
  have hcell : ∀ px py, InGrid s.params (px, py) →
      d.cell (pixelIndex s.params px py) = toggled (coverCount s x y n.val px py) (s.disp.cell (pixelIndex s.params px py)) :=
    hgrid
  refine ⟨fun k => ?_, ?_⟩
  · by_cases hk : ∃ px py, InGrid s.params (px, py) ∧ pixelIndex s.params px py = k
    · obtain ⟨px, py, hg, rfl⟩ := hk
      calc d'.cell (pixelIndex s.params px py)
          = toggled (coverCount s x y n.val px py) (d.cell (pixelIndex s.params px py)) := hgrid' px py hg
        _ = s.disp.cell (pixelIndex s.params px py) := by rw [hcell px py hg, toggled_toggled]
    · have hoff : ∀ px py, InGrid s.params (px, py) → pixelIndex s.params px py ≠ k := fun px py hg he =>
        hk ⟨px, py, hg, he⟩
      exact (hrest' k hoff).trans (hrest k hoff)
  · rw [reg_regVF_drawn, flagOf_eq_one_iff]
    refine hcollision.trans (exists₂_congr fun px py => ?_)
    show (1 ≤ coverCount s x y n.val px py ∧ d.cell (pixelIndex s.params px py) = 1) ∨
      (2 ≤ coverCount s x y n.val px py ∧ d.cell (pixelIndex s.params px py) = 0) ↔ _
    by_cases hcovered : 1 ≤ coverCount s x y n.val px py
    · rw [hcell px py (inGrid_of_covered hp hcovered)]
      exact collides_again_iff ..
    · have htwo : ¬ 2 ≤ coverCount s x y n.val px py := by omega
      simp only [hcovered, htwo, false_and]

/-! ## The bounds-checked accessors (R182) -/

/-- An error that the table names is about a key (R267). -/
theorem keyIndex_of_failureOf {i : Instr} {s : State} {e : EngineError} (h : failureOf i s = some (.error e)) :
    ∃ k, e = .keyIndexOutOfBounds k := by
  cases i with
  | skp x | sknp x =>
    simp only [failureOf] at h
    split at h <;> cases h
    exact ⟨_, rfl⟩
  | ret | call nnn | drw x y n | ldB x | stRegs x | ldRegs x =>
    simp only [failureOf] at h
    split at h <;> cases h
  | _ => cases h

/-- The reply is not that a pixel is out of bounds. -/
def NoPixelError (s : State) : Prop := ∀ x y, s.reply ≠ .error (.pixelOutOfBounds x y)

theorem noPixelError_setReply_ok (s : State) : NoPixelError (s.setReply .ok) := fun _ _ => nofun

theorem noPixelError_of_exec {i : Instr} {s t : State} (hp : s.params.ok) (h : exec i s = .next t) : NoPixelError t := by
  have hends := exec_ends i s
  generalize exec i s = res at h hends
  cases hends with
  | completes u hf hu => cases h; exact noPixelError_setReply_ok u
  | unfit e hunfit => exact absurd hp hunfit
  | fails f hf =>
    cases f with
    | error e =>
      obtain ⟨k, rfl⟩ := keyIndex_of_failureOf hf
      cases h
      exact fun _ _ => nofun
    | memoryOutOfBounds n | stackOverflow | stackUnderflow => cases h

theorem noPixelError_of_executeCycle {s t : State} (hp : s.params.ok) (h : executeCycle s = .next t) :
    NoPixelError t := by
  rcases executeCycle_cases s with ⟨-, he⟩ | ⟨-, r, -, he⟩ | ⟨-, i, -, he⟩ | ⟨-, -, i, -, -, he⟩ <;> rw [he] at h
  · cases h
  · cases h; exact fun _ _ => nofun
  · exact noPixelError_of_exec (s := s.advance) hp h
  · cases h

theorem noPixelError_of_loadRom {image : List Byte} {s t : State} (h : loadRom image s = .next t) : NoPixelError t := by
  by_cases hfit : image.length ≤ s.params.memSize - s.params.programStart
  · rw [loadRom_fits image s hfit] at h; cases h; exact noPixelError_setReply_ok _
  · rw [loadRom_tooLarge image s hfit] at h; cases h; exact fun _ _ => nofun

theorem noPixelError_of_keyEvent {k : Nat} {down : Bool} {s t : State} (h : keyEvent k down s = .next t) :
    NoPixelError t := by
  by_cases hk : k < Config.numKeys
  · rw [keyEvent_inside k down s hk] at h; cases h; exact noPixelError_setReply_ok _
  · rw [keyEvent_outside k down s hk] at h; cases h; exact fun _ _ => nofun

theorem noPixelError_of_transact {a : Transaction} {s t : State} (hp : s.params.ok) (h : transact a s = .next t) :
    NoPixelError t := by
  cases a with
  | executeCycle => exact noPixelError_of_executeCycle hp h
  | loadRom image => exact noPixelError_of_loadRom h
  | keyDown k => exact noPixelError_of_keyEvent h
  | keyUp k => exact noPixelError_of_keyEvent h
  | construct | decrementTimer | getDisplay | isSoundActive | getWidth | getHeight => cases h; exact fun _ _ => nofun

/-- Settles O15: the accessors compare the coordinates with the grid; a draw stays inside it, and nothing else can reach
them. -/
theorem pixelAccessIsCheckedAndNeverFails : Obligations.PixelAccessIsCheckedAndNeverFails := by
  refine ⟨fun p d x y b => ⟨fun ⟨hx, hy⟩ => ?_, fun hout => ⟨pixelGet_outside d hout, pixelSet_outside d b hout⟩⟩,
    fun s t a x y hp h => noPixelError_of_transact hp h x y⟩
  exact ⟨pixelGet_inside d hx hy, _, pixelSet_inside d b hx hy, fun k => Display.cell_setCell ..⟩

end Sys2Proof.Machine
end
